-- ==== Sys2Proof/Word.lean ====
section
/-! DEFINITION. The block's word types: bytes of the buffers, 16-bit Modbus registers, 32-bit bus words and
the 64-bit operand and result registers (10_state.md section 2, R27, R28, R31). -/

namespace Sys2Proof

/-- A byte of a buffer (R28). -/
abbrev Byte := BitVec 8

/-- A 16-bit Modbus register or CRC value (R26, R32). -/
abbrev Half := BitVec 16

/-- A 32-bit bus word, command word or VARR entry (R5, R22, R31). -/
abbrev Word := BitVec 32

/-- A 64-bit operand or result (R27). -/
abbrev DWord := BitVec 64

end Sys2Proof
end

