-- ==== Sys2Proof/Config.lean ====
section
/-! DEFINITION. The implementation parameters of 00_scope.md R5, and the two things the spec leaves open as
constants with no body: where the block sits in the host's map, and what the buffers hold after power-on. -/

namespace Sys2Proof.Config

/-- `BUF_SIZE` (R5, R28). -/
abbrev bufSize : Nat := 256

/-- `VARR_SIZE` (R5, R31). -/
abbrev varrSize : Nat := 2048

/-- `MAX_READ_BITS` (R5, R171). -/
abbrev maxReadBits : Nat := 2000

/-- `MAX_WRITE_BITS` (R5, R171). -/
abbrev maxWriteBits : Nat := 1968

/-- `MAX_READ_REGS` (R5, R171). -/
abbrev maxReadRegs : Nat := 125

/-- `MAX_WRITE_REGS` (R5, R171). -/
abbrev maxWriteRegs : Nat := 123

/-- `MIN_COUNT` (R5, R171; 90_conflicts.md C6: request counts only). -/
abbrev minCount : Nat := 1

/-- `MAX_DECIMALS` (R5, R85). -/
abbrev maxDecimals : Nat := 10

/-- `ID_VALUE` (R5, R21). -/
abbrev idValue : Word := 0x4D420007

/-- Which 16 KiB slot of the host's address space the block sits in: OPEN (R5, D2, I2), so it has no body (log 7). -/
opaque crcmbSlot : Nat

/-- `CRCMB_BASE`, a multiple of 0x4000 whatever the platform chose (R5, D2). -/
def crcmbBase : Nat := 0x4000 * crcmbSlot

/-- The byte a buffer address holds after the `epoch`-th power-on until something writes it: UNSPECIFIED,
any value (R38, I1), so it has no body. A free value (log 4). -/
opaque powerOnByte : (epoch address : Nat) → Byte

end Sys2Proof.Config
end

