-- ==== Sys2Proof/Machine/State.lean ====
section
/-! DEFINITION. The state of the block (10_state.md R20 to R38) with the host's pending accesses beside it, the
reasons a step could stop, and the state after power-on reset (R38). -/

namespace Sys2Proof.Machine

/-- STATUS (R23): its flags and code fields. Bits [7:4] have no storage and read 0. -/
structure Status where
  /-- bit 0: the last command failed -/
  err    : Bool
  /-- bit 1: sticky, some command failed since it was last cleared -/
  serr   : Bool
  /-- bit 2: RES holds a binary64 pattern -/
  resf   : Bool
  /-- bit 3: the last command was a PARSE_RSP that passed exception code 5 through -/
  x5     : Bool
  /-- bits [15:8] -/
  ecode  : Byte
  /-- bits [23:16] -/
  efield : Byte
  /-- bits [31:24] -/
  sxc    : Byte
deriving DecidableEq, Repr

/-- What can happen to the block from outside (00_scope.md R9, 70_reset_and_hazards.md R280, 30_encoding.md R93).
Offsets are from `CRCMB_BASE`. -/
inductive HostEvent where
  /-- `MemRead(off, n)`. -/
  | read (off n : Nat)
  /-- `MemWrite(off, n, v)`; a 1-byte write carries its value in `v[7:0]` (R63; log 8). -/
  | write (off n : Nat) (v : Word)
  /-- The host statement `chk` (R93): read STATUS and issue nothing more if ERR = 1 (log 16). -/
  | check
  /-- The block is powered up or its reset input asserted (R280; logs 11, 13). -/
  | powerOnReset
deriving DecidableEq, Repr

/-- How the last host access completed (R9, R66): what the host sees (log 9). -/
inductive Response where
  /-- No access has completed since power-on. -/
  | idle
  /-- A read returned this value (a 1-byte value zero-extended). -/
  | readOk (v : Word)
  /-- A write was accepted. -/
  | writeOk
  /-- A refused read: BusError, with the value the error response carries. -/
  | readError (v : Word)
  /-- A refused write: BusError. -/
  | writeError
deriving DecidableEq, Repr

/-- The buffers' memory: the bytes written since power-on, by window offset, offsets strictly rising. An offset
not listed holds no written value (log 5). -/
abbrev Memory := List Host.Cell

/-- The block's registers and buffers (R21 to R32), and the model's own four fields `mem`, `epoch`, `queue`, `resp`:
`mem` holds TXB, RXB, DBUF and VARR at their window offsets, the other three are the model's outside world. -/
structure State where
  status : Status
  eexp   : Word
  eact   : Word
  addr   : Byte
  raddr  : Half
  cnt    : Half
  wval   : Half
  val    : DWord
  res    : DWord
  crc    : Half
  txlen  : Fin 257
  rxlen  : Fin 257
  dlen   : Fin 257
  vcnt   : Fin 2049
  mem    : Memory
  /-- Power-on resets so far: the counter the free value `Config.powerOnByte` is applied to (log 4). -/
  epoch  : Nat
  /-- The host's events still to come, the next one first (R20, R70; log 1). -/
  queue  : List HostEvent
  resp   : Response
deriving DecidableEq, Repr

/-- Reasons a step stops with a fault. There is none: "every command, whatever the state, completes or fails, and the
block is ready for the next access" (R261), and a refused access is an error response after which the block goes on
(R66; log 3). Nobody raises one, which is safe only because the spec describes no stop. -/
inductive Fault where
deriving DecidableEq, Repr

/-- Reasons a step is refused. -/
inductive Refusal where
  /-- Raised by an arm of `exec` whose instruction has no meaning yet (none is left). Safe: the run stops. -/
  | notModelled (mnemonic : String)
deriving DecidableEq, Repr

/-- STATUS with every field 0. -/
def Status.zero : Status :=
  { err := false, serr := false, resf := false, x5 := false, ecode := 0, efield := 0, sxc := 0 }

/-- The machine right after power-on reset (R38, R280): CRC = 0xFFFF, every other register 0, and nothing written in
the buffers, whose contents are unspecified. `epoch`, `queue` and `resp` are the model's (logs 1, 4, 9). -/
def State.reset : State where
  status := .zero
  eexp   := 0
  eact   := 0
  addr   := 0
  raddr  := 0
  cnt    := 0
  wval   := 0
  val    := 0
  res    := 0
  crc    := 0xFFFF
  txlen  := 0
  rxlen  := 0
  dlen   := 0
  vcnt   := 0
  mem    := []
  epoch  := 0
  queue  := []
  resp   := .idle

end Sys2Proof.Machine
end

