-- ==== Sys2Proof/Machine/Flags.lean ====
section
/-! DEFINITION. STATUS: the word a host reads (10_state.md R23), the error and field codes (60_exceptions.md R251,
R252), and what STATUS becomes when a command completes (R253) or fails (R254). -/

namespace Sys2Proof.Machine

/-- The error codes (R251). -/
inductive ErrCode where
  | illegalCommand | validation | range | format | frameTooShort | checksum | addressMismatch | fcMismatch
  | slaveException | unknownSlaveException | responseValidation | prediction | unsupportedFunction | overflow
deriving DecidableEq, Repr

/-- ECODE of an error code (R251). -/
def ErrCode.val : ErrCode → Byte
  | .illegalCommand => 1
  | .validation => 2
  | .range => 3
  | .format => 4
  | .frameTooShort => 5
  | .checksum => 6
  | .addressMismatch => 7
  | .fcMismatch => 8
  | .slaveException => 9
  | .unknownSlaveException => 10
  | .responseValidation => 11
  | .prediction => 12
  | .unsupportedFunction => 13
  | .overflow => 14

/-- The field codes (R252). -/
inductive ErrField where
  | none | count | decimals | value | listElement | length | listCount | byteCount | dataLength | echoAddress
  | echoValue | echoCount | payloadLength | crc | address | function | frameLength | exceptionCode | predFc
  | predLength | fc | capacity
deriving DecidableEq, Repr

/-- EFIELD of a field code (R252). -/
def ErrField.val : ErrField → Byte
  | .none => 0x00
  | .count => 0x01
  | .decimals => 0x02
  | .value => 0x10
  | .listElement => 0x11
  | .length => 0x20
  | .listCount => 0x21
  | .byteCount => 0x30
  | .dataLength => 0x31
  | .echoAddress => 0x32
  | .echoValue => 0x33
  | .echoCount => 0x34
  | .payloadLength => 0x35
  | .crc => 0x40
  | .address => 0x41
  | .function => 0x42
  | .frameLength => 0x43
  | .exceptionCode => 0x44
  | .predFc => 0x50
  | .predLength => 0x51
  | .fc => 0x52
  | .capacity => 0x60

/-- `Fail(code, field, exp, act[, sxc])` (00_scope.md R10). -/
structure Failure where
  code  : ErrCode
  field : ErrField
  exp   : Int
  act   : Int
  sxc   : Byte := 0
deriving DecidableEq, Repr

/-- The STATUS word (R23): `SXC << 24 | EFIELD << 16 | ECODE << 8 | X5 << 3 | RESF << 2 | SERR << 1 | ERR`. -/
def Status.word (st : Status) : Word :=
  st.sxc.setWidth 32 <<< 24 ||| st.efield.setWidth 32 <<< 16 ||| st.ecode.setWidth 32 <<< 8 |||
    (BitVec.ofBool st.x5).setWidth 32 <<< 3 ||| (BitVec.ofBool st.resf).setWidth 32 <<< 2 |||
    (BitVec.ofBool st.serr).setWidth 32 <<< 1 ||| (BitVec.ofBool st.err).setWidth 32

/-- STATUS after `Complete(x5)` (R253). -/
def Status.completed (st : Status) (x5 : Bool) : Status :=
  { st with err := false, ecode := 0, efield := 0, x5 := x5, sxc := if x5 then 5 else 0 }

/-- STATUS after `Fail` (R254). -/
def Status.failed (st : Status) (f : Failure) : Status :=
  { st with err := true, serr := true, ecode := f.code.val, efield := f.field.val, sxc := f.sxc, x5 := false }

end Sys2Proof.Machine
end

