-- ==== Sys2Proof/Syntax.lean ====
section
/-! DEFINITION. The 25 commands (30_encoding.md R88), one constructor per row of the opcode table, each with the
fields its format carries (R81). -/

namespace Sys2Proof

/-- The four byte orders, in the order of their BO codes 0 to 3 (R83, R121). -/
inductive ByteOrder where
  /-- code 0 -/
  | big
  /-- code 1 -/
  | little
  /-- code 2: big-endian-word-swapped -/
  | bigSwapped
  /-- code 3: little-endian-word-swapped -/
  | littleSwapped
deriving DecidableEq, Repr

/-- The float width field W (R84): W = 0 is binary32 over 2 registers, W = 1 binary64 over 4. -/
inductive FloatWidth where
  /-- W = 0 -/
  | single
  /-- W = 1 -/
  | double
deriving DecidableEq, Repr

/-- The commands. `sg` is the S bit (R82: true = signed), `d` the decimals D (R85), `bo` the byte order (R83),
`w` the float width (R84), `fc` the function code (R86) and `b` the byte immediate (R86). -/
inductive Instr where
  /-- NOP (R240). -/
  | nop
  /-- CRC_INIT (R103). -/
  | crcInit
  /-- CRC_BYTE (R104). -/
  | crcByte (b : Byte)
  /-- CRC_DATA (R105). -/
  | crcData
  /-- ENC_REG_I (R126). -/
  | encRegI (sg : Bool) (d : Nat)
  /-- ENC_REG_F (R127). -/
  | encRegF (sg : Bool) (d : Nat)
  /-- DEC_REG (R128). -/
  | decReg (sg : Bool) (d : Nat)
  /-- ENC_LONG (R129). -/
  | encLong (sg : Bool) (bo : ByteOrder)
  /-- DEC_LONG (R130). -/
  | decLong (sg : Bool) (bo : ByteOrder)
  /-- ENC_FLOAT (R131). -/
  | encFloat (w : FloatWidth) (bo : ByteOrder)
  /-- DEC_FLOAT (R132). -/
  | decFloat (w : FloatWidth) (bo : ByteOrder)
  /-- ENC_REGLIST (R133). -/
  | encRegList
  /-- DEC_REGLIST (R134). -/
  | decRegList
  /-- ENC_BITS (R135). -/
  | encBits
  /-- DEC_BITS (R136). -/
  | decBits
  /-- ENC_COIL (R137). -/
  | encCoil
  /-- WORD_SWAP (R138). -/
  | wordSwap
  /-- PAYLOAD_READ (R172). -/
  | payloadRead (fc : Nat)
  /-- PAYLOAD_WRITE (R173). -/
  | payloadWrite (fc : Nat)
  /-- BUILD_REQ (R175). -/
  | buildReq (fc : Nat)
  /-- PARSE_RSP (R180). -/
  | parseRsp (fc : Nat)
  /-- VALIDATE_RSP (R190). -/
  | validateRsp (fc : Nat)
  /-- PREDICT (R221). -/
  | predict (fc : Nat)
  /-- CLR (R241). -/
  | clr
  /-- SRST (R242). -/
  | srst
deriving DecidableEq, Repr

end Sys2Proof
end

