-- ==== Sys2Proof/WellFormed.lean ====
section
/-! DEFINITION. Which terms of `Instr` a command word can carry: D fits its 4 bits and FC its 8 bits
(30_encoding.md R80, R85, R86). D = 11 to 15 is well formed: such a word decodes, and its command fails (R85). -/

namespace Sys2Proof

/-- The decimals field has 4 bits (R80). -/
def decimalsFit (d : Nat) : Bool := d < 16

/-- The function code field has 8 bits (R80). -/
def functionCodeFits (fc : Nat) : Bool := fc < 256

/-- Every field of the command fits the bits its format gives it (R80, R81). -/
def Instr.wf : Instr → Bool
  | .nop => true
  | .crcInit => true
  | .crcByte _ => true
  | .crcData => true
  | .encRegI _ d => decimalsFit d
  | .encRegF _ d => decimalsFit d
  | .decReg _ d => decimalsFit d
  | .encLong _ _ => true
  | .decLong _ _ => true
  | .encFloat _ _ => true
  | .decFloat _ _ => true
  | .encRegList => true
  | .decRegList => true
  | .encBits => true
  | .decBits => true
  | .encCoil => true
  | .wordSwap => true
  | .payloadRead fc => functionCodeFits fc
  | .payloadWrite fc => functionCodeFits fc
  | .buildReq fc => functionCodeFits fc
  | .parseRsp fc => functionCodeFits fc
  | .validateRsp fc => functionCodeFits fc
  | .predict fc => functionCodeFits fc
  | .clr => true
  | .srst => true

end Sys2Proof
end

