-- ==== Sys2Proof/Decode.lean ====
section
/-! DEFINITION. Decoding a command word, total on all 2^32 words and rejecting by name (30_encoding.md R80 to R91),
and after it the encoder (R92). -/

namespace Sys2Proof

/-- The six formats (R81). -/
inductive Format where
  | N | B | R | L | F | P
deriving DecidableEq, Repr

/-- The bits of a word that are fixed in a format: the opcode and every bit no field uses (R81). -/
def Format.mask : Format → Word
  | .N => 0xFFFFFFFF
  | .B => 0xFF00FFFF
  | .R => 0xFFFF0BFF
  | .L => 0xFFFFF8FF
  | .F => 0xFFFFF4FF
  | .P => 0xFF00FFFF

/-- The fields of a command word but its opcode (R80). `imm` is bits [23:16], FC in format P and B in format B. -/
structure Fields where
  bo  : ByteOrder
  sg  : Bool
  w   : FloatWidth
  d   : BitVec 4
  imm : Byte
deriving DecidableEq, Repr

/-- The byte order of a BO code (R83). -/
def ByteOrder.ofCode (c : BitVec 2) : ByteOrder :=
  if c = 0 then .big else if c = 1 then .little else if c = 2 then .bigSwapped else .littleSwapped

/-- The BO code of a byte order (R83). -/
def ByteOrder.code : ByteOrder → BitVec 2
  | .big => 0
  | .little => 1
  | .bigSwapped => 2
  | .littleSwapped => 3

/-- The float width of the W bit (R84). -/
def FloatWidth.ofBit (b : Bool) : FloatWidth := if b then .double else .single

/-- The W bit of a float width (R84). -/
def FloatWidth.bit : FloatWidth → Bool
  | .single => false
  | .double => true

/-- `OP = w[7:0]` (R80, R87). -/
def opField (w : Word) : Byte := w.extractLsb' 0 8

/-- The other fields of a word: `BO = w[9:8]`, `S = w[10]`, `W = w[11]`, `D = w[15:12]`, `FC` and `B = w[23:16]` (R87). -/
def fieldsOf (w : Word) : Fields where
  bo  := .ofCode (w.extractLsb' 8 2)
  sg  := w.getLsbD 10
  w   := .ofBit (w.getLsbD 11)
  d   := w.extractLsb' 12 4
  imm := w.extractLsb' 16 8

/-- A row of the opcode map: mnemonic, opcode, format, and the command its fields give. -/
structure OpRow where
  name  : String
  op    : Byte
  fmt   : Format
  build : Fields → Instr

/-- The opcode map (R88), its control and CRC rows. -/
def opcodeMapCrc : List OpRow := [
  ⟨"NOP", 0x00, .N, fun _ => .nop⟩,
  ⟨"CRC_INIT", 0x10, .N, fun _ => .crcInit⟩,
  ⟨"CRC_BYTE", 0x11, .B, fun f => .crcByte f.imm⟩,
  ⟨"CRC_DATA", 0x12, .N, fun _ => .crcData⟩]

/-- The opcode map (R88), its numeric codec rows. -/
def opcodeMapNumeric : List OpRow := [
  ⟨"ENC_REG_I", 0x20, .R, fun f => .encRegI f.sg f.d.toNat⟩,
  ⟨"ENC_REG_F", 0x21, .R, fun f => .encRegF f.sg f.d.toNat⟩,
  ⟨"DEC_REG", 0x22, .R, fun f => .decReg f.sg f.d.toNat⟩,
  ⟨"ENC_LONG", 0x23, .L, fun f => .encLong f.sg f.bo⟩,
  ⟨"DEC_LONG", 0x24, .L, fun f => .decLong f.sg f.bo⟩,
  ⟨"ENC_FLOAT", 0x25, .F, fun f => .encFloat f.w f.bo⟩,
  ⟨"DEC_FLOAT", 0x26, .F, fun f => .decFloat f.w f.bo⟩,
  ⟨"ENC_REGLIST", 0x27, .N, fun _ => .encRegList⟩,
  ⟨"DEC_REGLIST", 0x28, .N, fun _ => .decRegList⟩,
  ⟨"ENC_BITS", 0x29, .N, fun _ => .encBits⟩,
  ⟨"DEC_BITS", 0x2A, .N, fun _ => .decBits⟩,
  ⟨"ENC_COIL", 0x2B, .N, fun _ => .encCoil⟩,
  ⟨"WORD_SWAP", 0x2C, .N, fun _ => .wordSwap⟩]

/-- The opcode map (R88), its frame codec, predictor and remaining control rows. -/
def opcodeMapFrame : List OpRow := [
  ⟨"PAYLOAD_READ", 0x30, .P, fun f => .payloadRead f.imm.toNat⟩,
  ⟨"PAYLOAD_WRITE", 0x31, .P, fun f => .payloadWrite f.imm.toNat⟩,
  ⟨"BUILD_REQ", 0x32, .P, fun f => .buildReq f.imm.toNat⟩,
  ⟨"PARSE_RSP", 0x33, .P, fun f => .parseRsp f.imm.toNat⟩,
  ⟨"VALIDATE_RSP", 0x34, .P, fun f => .validateRsp f.imm.toNat⟩,
  ⟨"PREDICT", 0x40, .P, fun f => .predict f.imm.toNat⟩,
  ⟨"CLR", 0xF0, .N, fun _ => .clr⟩,
  ⟨"SRST", 0xFF, .N, fun _ => .srst⟩]

/-- The opcode map (R88): 25 rows. -/
def opcodeMap : List OpRow := opcodeMapCrc ++ opcodeMapNumeric ++ opcodeMapFrame

/-- Why a word is illegal (R90). -/
inductive DecodeError where
  /-- The opcode is not in the map. -/
  | unknownOpcode
  /-- A reserved or unused bit of a listed opcode's word is 1 (R89). -/
  | unusedBitSet
deriving DecidableEq, Repr

/-- Decoding (R87): the row with the word's opcode accepts exactly when the masked word equals the opcode. -/
def decode (w : Word) : Except DecodeError Instr :=
  match opcodeMap.find? (fun r => r.op == opField w) with
  | none => .error .unknownOpcode
  | some r =>
    if w &&& r.fmt.mask = r.op.setWidth 32 then .ok (r.build (fieldsOf w)) else .error .unusedBitSet

/-- The opcode of a command (R88). -/
def Instr.opcode : Instr → Byte
  | .nop => 0x00
  | .crcInit => 0x10
  | .crcByte _ => 0x11
  | .crcData => 0x12
  | .encRegI _ _ => 0x20
  | .encRegF _ _ => 0x21
  | .decReg _ _ => 0x22
  | .encLong _ _ => 0x23
  | .decLong _ _ => 0x24
  | .encFloat _ _ => 0x25
  | .decFloat _ _ => 0x26
  | .encRegList => 0x27
  | .decRegList => 0x28
  | .encBits => 0x29
  | .decBits => 0x2A
  | .encCoil => 0x2B
  | .wordSwap => 0x2C
  | .payloadRead _ => 0x30
  | .payloadWrite _ => 0x31
  | .buildReq _ => 0x32
  | .parseRsp _ => 0x33
  | .validateRsp _ => 0x34
  | .predict _ => 0x40
  | .clr => 0xF0
  | .srst => 0xFF

/-- The format of a command (R88). -/
def Instr.format : Instr → Format
  | .nop => .N
  | .crcInit => .N
  | .crcByte _ => .B
  | .crcData => .N
  | .encRegI _ _ => .R
  | .encRegF _ _ => .R
  | .decReg _ _ => .R
  | .encLong _ _ => .L
  | .decLong _ _ => .L
  | .encFloat _ _ => .F
  | .decFloat _ _ => .F
  | .encRegList => .N
  | .decRegList => .N
  | .encBits => .N
  | .decBits => .N
  | .encCoil => .N
  | .wordSwap => .N
  | .payloadRead _ => .P
  | .payloadWrite _ => .P
  | .buildReq _ => .P
  | .parseRsp _ => .P
  | .validateRsp _ => .P
  | .predict _ => .P
  | .clr => .N
  | .srst => .N

/-- Every field 0: what an omitted field is (R92). -/
def Fields.zero : Fields := { bo := .big, sg := false, w := .single, d := 0, imm := 0 }

/-- The fields of a command, those its format does not use being 0 (R81, R92). -/
def Instr.fields : Instr → Fields
  | .nop => .zero
  | .crcInit => .zero
  | .crcByte b => { Fields.zero with imm := b }
  | .crcData => .zero
  | .encRegI sg d => { Fields.zero with sg := sg, d := BitVec.ofNat 4 d }
  | .encRegF sg d => { Fields.zero with sg := sg, d := BitVec.ofNat 4 d }
  | .decReg sg d => { Fields.zero with sg := sg, d := BitVec.ofNat 4 d }
  | .encLong sg bo => { Fields.zero with sg := sg, bo := bo }
  | .decLong sg bo => { Fields.zero with sg := sg, bo := bo }
  | .encFloat w bo => { Fields.zero with w := w, bo := bo }
  | .decFloat w bo => { Fields.zero with w := w, bo := bo }
  | .encRegList => .zero
  | .decRegList => .zero
  | .encBits => .zero
  | .decBits => .zero
  | .encCoil => .zero
  | .wordSwap => .zero
  | .payloadRead fc => { Fields.zero with imm := BitVec.ofNat 8 fc }
  | .payloadWrite fc => { Fields.zero with imm := BitVec.ofNat 8 fc }
  | .buildReq fc => { Fields.zero with imm := BitVec.ofNat 8 fc }
  | .parseRsp fc => { Fields.zero with imm := BitVec.ofNat 8 fc }
  | .validateRsp fc => { Fields.zero with imm := BitVec.ofNat 8 fc }
  | .predict fc => { Fields.zero with imm := BitVec.ofNat 8 fc }
  | .clr => .zero
  | .srst => .zero

/-- `word = OP | BO << 8 | S << 10 | W << 11 | D << 12 | (FC or B) << 16` (R92). -/
def packWord (op : Byte) (f : Fields) : Word :=
  op.setWidth 32 ||| f.bo.code.setWidth 32 <<< 8 ||| (BitVec.ofBool f.sg).setWidth 32 <<< 10 |||
    (BitVec.ofBool f.w.bit).setWidth 32 <<< 11 ||| f.d.setWidth 32 <<< 12 ||| f.imm.setWidth 32 <<< 16

/-- The word of a command (R92). -/
def encode (i : Instr) : Word := packWord i.opcode i.fields

/-- The instruction the decoder reads from an opcode-table word of `nbits` bits. A command is one 32-bit
word (R91), so a longer one is none of ours; bits above `nbits` are 0 (log 17). -/
def decodeTableWord (nbits w : Nat) : Option Instr :=
  if nbits ≤ 32 then
    match decode (BitVec.ofNat 32 (w % 2 ^ nbits)) with
    | .ok i => some i
    | .error _ => none
  else none

end Sys2Proof
end

