-- ==== Sys2Proof/Machine/Operands.lean ====
section
/-! DEFINITION. Operand and byte-order functions, free of state: big-endian lists (00_scope.md R7), the bus lanes
(20_memory.md R63), the byte orders and the word swap (41_numeric_codec.md R121 to R125), bit packing (R135, R136),
the request limits (42_frame_codec.md R170, R171) and the bounds of the integer encoders (R139). -/

namespace Sys2Proof.Machine

/-- Byte `k` of a value, byte 0 the least significant. -/
def byteOf {n : Nat} (v : BitVec n) (k : Nat) : Byte := v.extractLsb' (8 * k) 8

/-- `be_2(u)` (R7). -/
def be2 (v : Half) : List Byte := [byteOf v 1, byteOf v 0]

/-- `be_4(u)` (R7). -/
def be4 (v : Word) : List Byte := [byteOf v 3, byteOf v 2, byteOf v 1, byteOf v 0]

/-- `be_8(u)` (R7). -/
def be8 (v : DWord) : List Byte :=
  [byteOf v 7, byteOf v 6, byteOf v 5, byteOf v 4, byteOf v 3, byteOf v 2, byteOf v 1, byteOf v 0]

/-- `unbe(l)`: the unsigned number of a byte list read most significant byte first (R7). -/
def unbe (l : List Byte) : Nat := l.foldl (fun n b => 256 * n + b.toNat) 0

/-- The four bytes of a bus word, lane [7:0] first (R63). -/
def le4 (v : Word) : List Byte := [byteOf v 0, byteOf v 1, byteOf v 2, byteOf v 3]

/-- The bus word of four bytes, the first in lane [7:0] (R63). -/
def ofLe4 (b0 b1 b2 b3 : Byte) : Word :=
  b0.setWidth 32 ||| b1.setWidth 32 <<< 8 ||| b2.setWidth 32 <<< 16 ||| b3.setWidth 32 <<< 24

/-- `ceil8(n)` (R6). -/
def ceil8 (n : Nat) : Nat := (n + 7) / 8

/-- `swapHalves(l)`, used on even-length lists (R124). -/
def swapHalves (l : List Byte) : List Byte := l.drop (l.length / 2) ++ l.take (l.length / 2)

/-- Whether a byte order's base endianness is little (R125). -/
def isLittle : ByteOrder → Bool
  | .big => false
  | .little => true
  | .bigSwapped => false
  | .littleSwapped => true

/-- Whether a byte order is a word-swapped variant (R125). -/
def isSwapped : ByteOrder → Bool
  | .big => false
  | .little => false
  | .bigSwapped => true
  | .littleSwapped => true

/-- `order(BO, l)` (R125): reverse for a little base endianness, then swap the halves for a swapped variant. -/
def order (bo : ByteOrder) (l : List Byte) : List Byte :=
  let t := if isLittle bo then l.reverse else l
  if isSwapped bo then swapHalves t else t

/-- `2 + 2W` registers of two bytes each (R84). -/
def floatBytes : FloatWidth → Nat
  | .single => 4
  | .double => 8

/-- `lo` of the range check (R139). -/
def fitLo (sg : Bool) (n : Nat) : Int := if sg then -2 ^ (n - 1) else 0

/-- `hi` of the range check (R139). -/
def fitHi (sg : Bool) (n : Nat) : Int := if sg then 2 ^ (n - 1) - 1 else 2 ^ n - 1

/-- A byte from up to eight bits, least significant first (R135). -/
def packByte : List Nat → Nat
  | [] => 0
  | b :: bs => b + 2 * packByte bs

/-- `n` bytes from a list of bits, eight a byte, LSB first, the missing ones 0 (R135). -/
def packBits : (n : Nat) → List Nat → List Byte
  | 0, _ => []
  | n + 1, l => BitVec.ofNat 8 (packByte (l.take 8)) :: packBits n (l.drop 8)

/-- The first entry above a bound, with its index, counting from `i` (R133, R135). -/
def firstAbove (bound : Nat) : (i : Nat) → List Word → Option (Nat × Word)
  | _, [] => none
  | i, v :: vs => if bound < v.toNat then some (i, v) else firstAbove bound (i + 1) vs

/-- The function codes of reads of bits (R170). -/
def isReadBits (fc : Nat) : Bool := fc == 1 || fc == 2

/-- The function codes of reads of registers (R170). -/
def isReadRegs (fc : Nat) : Bool := fc == 3 || fc == 4

/-- The function codes of reads (R170). -/
def isRead (fc : Nat) : Bool := isReadBits fc || isReadRegs fc

/-- The function codes of single writes (R170). -/
def isWriteSingle (fc : Nat) : Bool := fc == 5 || fc == 6

/-- The function codes of multiple writes (R170). -/
def isWriteMultiple (fc : Nat) : Bool := fc == 15 || fc == 16

/-- The function codes of writes (R170). -/
def isWrite (fc : Nat) : Bool := isWriteSingle fc || isWriteMultiple fc

/-- `SUPPORTED = {1, 2, 3, 4, 5, 6, 15, 16}` (R170). -/
def isSupported (fc : Nat) : Bool := isRead fc || isWrite fc

/-- The largest count a read request may ask for (R171). -/
def maxReadCount (fc : Nat) : Nat := if isReadBits fc then Config.maxReadBits else Config.maxReadRegs

/-- The largest count a multiple write may carry (R171): bits for 15, registers for 16. -/
def maxWriteCount (fc : Nat) : Nat := if fc = 15 then Config.maxWriteBits else Config.maxWriteRegs

/-- The data bytes of `n` bits (functions 1, 2, 15) or `n` registers (3, 4, 16) (R170, R174). -/
def dataBytes (fc n : Nat) : Nat := if isReadBits fc || fc == 15 then ceil8 n else 2 * n

/-- The exception codes DOC0 gives a kind (R185). -/
def isKnownException (code : Nat) : Bool := [1, 2, 3, 4, 6, 7, 8, 10, 11].contains code

end Sys2Proof.Machine
end

