-- ==== Sys2Proof/Machine/Ops.lean ====
section
/-! DEFINITION. The shared operations: the buffers' memory (10_state.md R28 to R31), completing and failing a command
(60_exceptions.md R250 to R254), the output primitives `setD` and `setRes` (41_numeric_codec.md R120), and reset
(70_reset_and_hazards.md R280, 44_control.md R242). -/

namespace Sys2Proof.Machine

/-- Offset of the TXB window (R60). -/
abbrev txbBase : Nat := 0x100

/-- Offset of the RXB window (R60). -/
abbrev rxbBase : Nat := 0x200

/-- Offset of the DBUF window (R60). -/
abbrev dbufBase : Nat := 0x300

/-- Offset of the CRCTAB window (R60). -/
abbrev crctabBase : Nat := 0x400

/-- Offset of the VARR window (R60). -/
abbrev varrBase : Nat := 0x2000

/-- The offsets at which the block stores bytes: TXB, RXB, DBUF and VARR (R60). -/
def isStorage (a : Nat) : Bool := (txbBase ≤ a && a < crctabBase) || (varrBase ≤ a && a < 0x4000)

/-- Offsets strictly rising. -/
def Memory.rising : Memory → Bool
  | [] => true
  | [_] => true
  | c :: c' :: m => c.1 < c'.1 && Memory.rising (c' :: m)

/-- The canonical form: offsets strictly rising, each one of storage. An unlisted offset holds no written value, so
no entry can equal what it holds (log 5). -/
def Memory.wf (m : Memory) : Bool := Memory.rising m && m.all (fun c => isStorage c.1)

/-- The written byte at an offset, if any. -/
def Memory.lookup : Memory → Nat → Option Byte
  | [], _ => none
  | c :: m, a => if c.1 = a then some c.2 else Memory.lookup m a

/-- Cells for a list of bytes from an offset up. -/
def cells : (base : Nat) → List Byte → Memory
  | _, [] => []
  | base, b :: bs => (base, b) :: cells (base + 1) bs

/-- Write a list of bytes from an offset up, and nothing else. -/
def Memory.write (m : Memory) (base : Nat) (bs : List Byte) : Memory :=
  m.filter (fun c => c.1 < base) ++ cells base bs ++ m.filter (fun c => base + bs.length ≤ c.1)

/-- One stored byte (R64): the byte written there, or the unspecified one it held since power-on (R38). -/
def State.byteAt (s : State) (a : Nat) : Byte := (s.mem.lookup a).getD (Config.powerOnByte s.epoch a)

/-- `n` stored bytes from an offset up. -/
def State.bytesAt (s : State) (base n : Nat) : List Byte := (List.range n).map (fun i => s.byteAt (base + i))

/-- Four stored bytes as a bus word (R63). -/
def State.wordAt (s : State) (a : Nat) : Word :=
  ofLe4 (s.byteAt a) (s.byteAt (a + 1)) (s.byteAt (a + 2)) (s.byteAt (a + 3))

/-- `DBUF[0..DLEN)`. -/
def State.data (s : State) : List Byte := s.bytesAt dbufBase s.dlen.val

/-- `DBUF[i]`. -/
def State.dbuf (s : State) (i : Nat) : Byte := s.byteAt (dbufBase + i)

/-- `RXB[i]`. -/
def State.rxb (s : State) (i : Nat) : Byte := s.byteAt (rxbBase + i)

/-- `VARR[i]` (R31), four bytes of storage from `0x2000 + 4i` (log 6). -/
def State.varr (s : State) (i : Nat) : Word := s.wordAt (varrBase + 4 * i)

/-- `VARR[0..n)`. -/
def State.varrList (s : State) (n : Nat) : List Word := (List.range n).map s.varr

/-- Store bytes in a buffer. -/
def State.store (s : State) (base : Nat) (bs : List Byte) : State := { s with mem := s.mem.write base bs }

/-- `DBUF[0..len(l)) <- l; DLEN <- len(l)`, for a list of at most 256 bytes (R120). -/
def State.putData (s : State) (l : List Byte) : State :=
  { s.store dbufBase l with dlen := Fin.ofNat 257 l.length }

/-- `TXB[0..len(l)) <- l; TXLEN <- len(l)`, for a frame of at most 256 bytes (R175). -/
def State.putFrame (s : State) (l : List Byte) : State :=
  { s.store txbBase l with txlen := Fin.ofNat 257 l.length }

/-- `VARR[0..len(l)) <- l; VCNT <- len(l)`, for a list of at most 2048 entries (R31, R134, R136). -/
def State.putList (s : State) (l : List Word) : State :=
  { s.store varrBase (l.flatMap le4) with vcnt := Fin.ofNat 2049 l.length }

/-- `setRes(v, f)` (R120). -/
def State.setRes (s : State) (v : DWord) (f : Bool) : State :=
  { s with res := v, status := { s.status with resf := f } }

/-- `Complete(x5)` (R253). -/
def State.complete (s : State) (x5 : Bool) : State :=
  { s with status := s.status.completed x5, eexp := 0, eact := 0 }

/-- `Fail(code, field, exp, act[, sxc])` applied to the state before the command (R250, R254): the block's only form of
exception. It saves nothing else and goes nowhere (R259), so there is no return from it either (R260). -/
def State.fail (s : State) (f : Failure) : State :=
  { s with status := s.status.failed f, eexp := BitVec.ofInt 32 f.exp, eact := BitVec.ofInt 32 f.act }

/-- How a command's pseudocode ends (R10): complete with the state its writes give, or fail. -/
inductive Ending where
  | complete (s : State) (x5 : Bool)
  | fail (f : Failure)
deriving DecidableEq, Repr

/-- The state after a command (R250): its writes and `Complete` together, or `Fail` on the state before. -/
def State.finish (s : State) : Ending → State
  | .complete t x5 => t.complete x5
  | .fail f => s.fail f

/-- `FAIL_IF c : Fail(...)`, then the rest (R10). -/
def failIf (c : Prop) [Decidable c] (f : Failure) (rest : Ending) : Ending := if c then .fail f else rest

/-- `setD(l)`, then the rest on the state it leaves (R120). -/
def setD (l : List Byte) (s : State) (rest : State → Ending) : Ending :=
  failIf (Config.bufSize < l.length) { code := .overflow, field := .capacity, exp := 256, act := l.length }
    (rest (s.putData l))

/-- `fit(n, S, N)`, then the rest (R139). -/
def fit (n : Int) (sg : Bool) (bits : Nat) (rest : Ending) : Ending :=
  failIf (n < fitLo sg bits) { code := .range, field := .value, exp := fitLo sg bits, act := n } <|
  failIf (fitHi sg bits < n) { code := .range, field := .value, exp := fitHi sg bits, act := n } rest

/-- The function-code check every frame command makes first (R170). -/
def needFc (supported : Bool) (fc : Nat) (rest : Ending) : Ending :=
  failIf (supported = false) { code := .unsupportedFunction, field := .fc, exp := 0, act := fc } rest

/-- The decimals check (R85, R126 to R128). -/
def needDecimals (d : Nat) (rest : Ending) : Ending :=
  failIf (Config.maxDecimals < d) { code := .validation, field := .decimals, exp := 10, act := d } rest

/-- The exact-length check of the decoders and PAYLOAD_WRITE (R120, R128, R130, R132, R134, R136, R173). -/
def needLength (required : Nat) (s : State) (rest : Ending) : Ending :=
  failIf (s.dlen.val ≠ required) { code := .format, field := .length, exp := required, act := s.dlen.val } rest

/-- The count check of the payload builders (R171). -/
def needCount (limit : Nat) (s : State) (rest : Ending) : Ending :=
  failIf (s.cnt.toNat < Config.minCount) { code := .validation, field := .count, exp := 1, act := s.cnt.toNat } <|
  failIf (limit < s.cnt.toNat) { code := .validation, field := .count, exp := limit, act := s.cnt.toNat } rest

/-- The entry check of the list encoders (R133, R135): the first entry above the bound is reported. -/
def needEntries (bound : Nat) (l : List Word) (rest : Ending) : Ending :=
  match firstAbove bound 0 l with
  | some (i, v) => .fail { code := .range, field := .listElement, exp := i, act := v.toNat }
  | none => rest

/-- SRST (R242): every register to its reset value; the buffers keep their bytes (R281). -/
def State.softReset (s : State) : State :=
  { s with
    status := .zero, eexp := 0, eact := 0, addr := 0, raddr := 0, cnt := 0, wval := 0, val := 0, res := 0,
    crc := 0xFFFF, txlen := 0, rxlen := 0, dlen := 0, vcnt := 0 }

/-- Power-on reset (R280): the registers as SRST leaves them (R281) and fresh unspecified buffers (log 4). -/
def State.powerOn (s : State) : State := { s.softReset with mem := [], epoch := s.epoch + 1, resp := .idle }

/-- The state in which a host write has been accepted. -/
def State.accept (s : State) : State := { s with resp := .writeOk }

/-- A word the decoder rejects is not executed: the command fails (R90). -/
def State.illegal (s : State) (w : Word) : State :=
  s.fail { code := .illegalCommand, field := .none, exp := 0, act := w.toNat }

/-- The outcome of a command: always a next state (R261). -/
def State.ends (s : State) (e : Ending) : Host.Outcome State Fault Refusal := .next (s.finish e)

/-- The offset of a host byte address, where it is not below the window (R5, R61; log 7). -/
def offsetOf (a : Nat) : Option Nat := if Config.crcmbBase ≤ a then some (a - Config.crcmbBase) else none

end Sys2Proof.Machine
end

