-- ==== Sys2Proof/Machine/Control.lean ====
section
/-! DEFINITION. The control commands (44_control.md R240 to R242). -/

namespace Sys2Proof.Machine

/-- The outcome of NOP: `Complete(0)` (R240). -/
def execNop (s : State) : Host.Outcome State Fault Refusal := s.ends (.complete s false)

/-- The outcome of CLR: `DLEN <- 0; VCNT <- 0; Complete(0)` (R241). -/
def execClr (s : State) : Host.Outcome State Fault Refusal := s.ends (.complete { s with dlen := 0, vcnt := 0 } false)

/-- The outcome of SRST (R242): it does not execute `Complete`. -/
def execSrst (s : State) : Host.Outcome State Fault Refusal := .next s.softReset

end Sys2Proof.Machine
end

