-- ==== Sys2Proof/Machine/Frame.lean ====
section
/-! DEFINITION. The frame codec commands (42_frame_codec.md R170 to R196): the payload builders, BUILD_REQ, PARSE_RSP
with its six ordered checks, and VALIDATE_RSP. -/

namespace Sys2Proof.Machine

/-- PAYLOAD_READ (R172). -/
def payloadRead (fc : Nat) (s : State) : Ending :=
  needFc (isRead fc) fc <|
  needCount (maxReadCount fc) s <|
  setD (be2 s.raddr ++ be2 s.cnt) s fun t => .complete t false

/-- PAYLOAD_WRITE (R173): functions 5 and 6 remember the two data bytes in WVAL for the echo check (R195). -/
def payloadWrite (fc : Nat) (s : State) : Ending :=
  needFc (isWrite fc) fc <|
  if isWriteSingle fc then
    needLength 2 s <|
    setD (be2 s.raddr ++ s.data) s fun t => .complete { t with wval := BitVec.ofNat 16 (unbe s.data) } false
  else
    needCount (maxWriteCount fc) s <|
    needLength (dataBytes fc s.cnt.toNat) s <|
    setD (be2 s.raddr ++ be2 s.cnt ++ [BitVec.ofNat 8 (dataBytes fc s.cnt.toNat)] ++ s.data) s
      fun t => .complete t false

/-- The frame BUILD_REQ assembles, without its trailer (R174, R175). -/
def requestBody (fc : Nat) (s : State) : List Byte := s.addr :: BitVec.ofNat 8 fc :: s.data

/-- BUILD_REQ (R175). -/
def buildReq (fc : Nat) (s : State) : Ending :=
  needFc (isSupported fc) fc <|
  failIf (Config.bufSize < s.dlen.val + 4)
    { code := .overflow, field := .capacity, exp := 256, act := (s.dlen.val + 4 : Nat) } <|
  .complete (s.putFrame (requestBody fc s ++ crcTrailer (crc16 (requestBody fc s)))) false

/-- The CRC computed over a received frame but its trailer (R182). -/
def computedCrc (s : State) : Half := crc16 (s.bytesAt rxbBase (s.rxlen.val - 2))

/-- The CRC a received frame carries, low byte first (R102, R182). -/
def receivedCrc (s : State) : Half :=
  (s.rxb (s.rxlen.val - 2)).setWidth 16 ||| (s.rxb (s.rxlen.val - 1)).setWidth 16 <<< 8

/-- Checks 5 and 6 of PARSE_RSP: the function code and the payload (R187, R188). -/
def parsePayload (fc : Nat) (s : State) (x5 : Bool) : Ending :=
  failIf ((s.rxb 1).toNat % 128 ≠ fc)
    { code := .fcMismatch, field := .function, exp := fc, act := ((s.rxb 1).toNat % 128 : Nat) } <|
  setD (s.bytesAt (rxbBase + 2) (s.rxlen.val - 4)) s fun t => .complete t x5

/-- Check 4 of PARSE_RSP (R184 to R186): an exception-flagged frame fails, but for code 5, which passes through. -/
def parseException (s : State) (rest : Bool → Ending) : Ending :=
  if (s.rxb 1).getLsbD 7 then
    failIf (isKnownException (s.rxb 2).toNat)
      { code := .slaveException, field := .exceptionCode, exp := 0, act := (s.rxb 2).toNat, sxc := s.rxb 2 } <|
    failIf ((s.rxb 2).toNat ≠ 5)
      { code := .unknownSlaveException, field := .exceptionCode, exp := 0, act := (s.rxb 2).toNat, sxc := s.rxb 2 } <|
    rest true
  else rest false

/-- PARSE_RSP (R180): the function-code check, then the six checks of R181 to R188 in order. -/
def parseRsp (fc : Nat) (s : State) : Ending :=
  needFc (isSupported fc) fc <|
  failIf (s.rxlen.val < 4) { code := .frameTooShort, field := .frameLength, exp := 4, act := s.rxlen.val } <|
  failIf (computedCrc s ≠ receivedCrc s)
    { code := .checksum, field := .crc, exp := (computedCrc s).toNat, act := (receivedCrc s).toNat } <|
  failIf (s.rxb 0 ≠ s.addr) { code := .addressMismatch, field := .address, exp := s.addr.toNat, act := (s.rxb 0).toNat } <|
  parseException s (parsePayload fc s)

/-- VALIDATE_RSP on a read response (R191 to R193): the byte count is checked and stripped. -/
def validateRead (fc : Nat) (s : State) : Ending :=
  failIf (s.dlen.val < 1)
    { code := .responseValidation, field := .payloadLength, exp := 1, act := s.dlen.val } <|
  failIf ((s.dbuf 0).toNat ≠ s.dlen.val - 1)
    { code := .responseValidation, field := .byteCount, exp := (s.dlen.val - 1 : Nat), act := (s.dbuf 0).toNat } <|
  failIf (s.dlen.val - 1 ≠ dataBytes fc s.cnt.toNat)
    { code := .responseValidation, field := .dataLength, exp := dataBytes fc s.cnt.toNat
      act := (s.dlen.val - 1 : Nat) } <|
  setD (s.bytesAt (dbufBase + 1) (s.dlen.val - 1)) s fun t => .complete t false

/-- VALIDATE_RSP on a write response (R194 to R196): the echoes of address, and of value or count. -/
def validateWrite (fc : Nat) (s : State) : Ending :=
  failIf (s.dlen.val ≠ 4)
    { code := .responseValidation, field := .payloadLength, exp := 4, act := s.dlen.val } <|
  failIf (unbe (s.bytesAt dbufBase 2) ≠ s.raddr.toNat)
    { code := .responseValidation, field := .echoAddress, exp := s.raddr.toNat, act := unbe (s.bytesAt dbufBase 2) } <|
  if isWriteSingle fc then
    failIf (unbe (s.bytesAt (dbufBase + 2) 2) ≠ s.wval.toNat)
      { code := .responseValidation, field := .echoValue, exp := s.wval.toNat
        act := unbe (s.bytesAt (dbufBase + 2) 2) } <|
    .complete s false
  else
    failIf (unbe (s.bytesAt (dbufBase + 2) 2) ≠ s.cnt.toNat)
      { code := .responseValidation, field := .echoCount, exp := s.cnt.toNat
        act := unbe (s.bytesAt (dbufBase + 2) 2) } <|
    .complete s false

/-- VALIDATE_RSP (R190). -/
def validateRsp (fc : Nat) (s : State) : Ending :=
  needFc (isSupported fc) fc <|
  if isRead fc then validateRead fc s else validateWrite fc s

/-- The outcome of PAYLOAD_READ. -/
def execPayloadRead (fc : Nat) (s : State) : Host.Outcome State Fault Refusal := s.ends (payloadRead fc s)

/-- The outcome of PAYLOAD_WRITE. -/
def execPayloadWrite (fc : Nat) (s : State) : Host.Outcome State Fault Refusal := s.ends (payloadWrite fc s)

/-- The outcome of BUILD_REQ. -/
def execBuildReq (fc : Nat) (s : State) : Host.Outcome State Fault Refusal := s.ends (buildReq fc s)

/-- The outcome of PARSE_RSP. -/
def execParseRsp (fc : Nat) (s : State) : Host.Outcome State Fault Refusal := s.ends (parseRsp fc s)

/-- The outcome of VALIDATE_RSP. -/
def execValidateRsp (fc : Nat) (s : State) : Host.Outcome State Fault Refusal := s.ends (validateRsp fc s)

end Sys2Proof.Machine
end

