-- ==== Sys2Proof/Machine/Float.lean ====
section
/-! DEFINITION. IEEE-754 binary64 and binary32 (00_scope.md R11, G2): exact values, round to nearest ties to even,
narrowing (41_numeric_codec.md R140) and widening (R141). A finite datum is a sign and a magnitude; a magnitude is
an exact multiple of the format's least positive value, so every rational here is a quotient of two naturals. -/

namespace Sys2Proof.Machine

/-- A binary format. -/
structure Ieee where
  /-- fraction bits -/
  frac   : Nat
  /-- the exponent field of infinities and NaNs -/
  expInf : Nat
  /-- one over the least positive value, `2^-149` or `2^-1074` -/
  unit   : Nat
deriving DecidableEq, Repr

/-- binary32. -/
def binary32 : Ieee := { frac := 23, expInf := 0xFF, unit := 2 ^ 149 }

/-- binary64; `unit` is `2^1074`, in factors that every evaluator of literals accepts. -/
def binary64 : Ieee :=
  { frac := 52, expInf := 0x7FF, unit := 2 ^ 256 * 2 ^ 256 * 2 ^ 256 * 2 ^ 256 * 2 ^ 50 }

/-- The pattern of infinity without its sign bit. -/
def Ieee.infBits (f : Ieee) : Nat := f.expInf * 2 ^ f.frac

/-- The magnitude of a finite pattern without its sign bit, as a multiple of `1 / unit` (R11 `real`). -/
def Ieee.mag (f : Ieee) (bits : Nat) : Nat :=
  if bits / 2 ^ f.frac = 0 then bits % 2 ^ f.frac
  else (2 ^ f.frac + bits % 2 ^ f.frac) * 2 ^ (bits / 2 ^ f.frac - 1)

/-- How many low bits of a magnitude lie below the last place of its rounding: none for a subnormal. -/
def Ieee.shift (f : Ieee) (m : Nat) : Nat := Nat.log2 m - f.frac

/-- `a / b` rounded to the nearest integer, ties to even. -/
def roundDiv (a b : Nat) : Nat :=
  if b < 2 * (a % b) ∨ (b = 2 * (a % b) ∧ a / b % 2 = 1) then a / b + 1 else a / b

/-- `RNE` of the rational `n / d`, as a pattern without its sign bit (R11): the significand is rounded once, and a
result at or past the overflow bound is infinity. -/
def Ieee.rne (f : Ieee) (n d : Nat) : Nat :=
  let k := f.shift (n * f.unit / d)
  min (k * 2 ^ f.frac + roundDiv (n * f.unit) (d * 2 ^ k)) f.infBits

/-- The sign bit of a binary64 pattern. -/
def sign64 (p : DWord) : Bool := p.getLsbD 63

/-- A binary64 pattern without its sign bit. -/
def bits64 (p : DWord) : Nat := p.toNat % 2 ^ 63

/-- `isNaN(f64(p))` (R11). -/
def isNaN64 (p : DWord) : Bool := binary64.infBits < bits64 p

/-- `isInf(f64(p))` (R11). -/
def isInf64 (p : DWord) : Bool := bits64 p = binary64.infBits

/-- The magnitude of `real(f64(p))` for a finite `p`, as a multiple of `2^-1074` (R11). -/
def mag64 (p : DWord) : Nat := binary64.mag (bits64 p)

/-- A binary64 pattern from its sign and the rest. -/
def pack64 (neg : Bool) (bits : Nat) : DWord := BitVec.ofNat 64 (bits + if neg then 2 ^ 63 else 0)

/-- A binary32 pattern from its sign and the rest. -/
def pack32 (neg : Bool) (bits : Nat) : Word := BitVec.ofNat 32 (bits + if neg then 2 ^ 31 else 0)

/-- The magnitude bits of `RNE64(real(x) * 10^D)` (R127, R142). -/
def scaleBits (x : DWord) (d : Nat) : Nat := binary64.rne (mag64 x * 10 ^ d) binary64.unit

/-- `trunc` of a finite binary64 datum given as sign and magnitude bits: toward zero (R11). -/
def truncInt (neg : Bool) (bits : Nat) : Int :=
  if neg then -(binary64.mag bits / binary64.unit : Nat) else (binary64.mag bits / binary64.unit : Nat)

/-- `bits64(RNE64(r / 10^D))` (R128, R142). -/
def quotientBits (r : Int) (d : Nat) : DWord := pack64 (r < 0) (binary64.rne r.natAbs (10 ^ d))

/-- `narrow(p)` (R140): the binary32 pattern, or nothing when a finite value overflows. -/
def narrow (p : DWord) : Option Word :=
  if isNaN64 p then
    some ((BitVec.ofBool (sign64 p)).setWidth 32 <<< 31 ||| 0x7FC00000 ||| (p.extractLsb' 29 22).setWidth 32)
  else if isInf64 p then
    some ((BitVec.ofBool (sign64 p)).setWidth 32 <<< 31 ||| 0x7F800000)
  else if mag64 p = 0 then
    some ((BitVec.ofBool (sign64 p)).setWidth 32 <<< 31)
  else if binary32.rne (mag64 p) binary64.unit = binary32.infBits then
    none
  else
    some (pack32 (sign64 p) (binary32.rne (mag64 p) binary64.unit))

/-- `widen(q)` (R141). -/
def widen (q : Word) : DWord :=
  if q.extractLsb' 23 8 = 0xFF ∧ q.extractLsb' 0 23 ≠ 0 then
    (BitVec.ofBool (q.getLsbD 31)).setWidth 64 <<< 63 ||| (0x7FF : DWord) <<< 52 ||| (1 : DWord) <<< 51 |||
      (q.extractLsb' 0 23).setWidth 64 <<< 29
  else if q.extractLsb' 23 8 = 0xFF then
    (BitVec.ofBool (q.getLsbD 31)).setWidth 64 <<< 63 ||| (0x7FF : DWord) <<< 52
  else
    pack64 (q.getLsbD 31) (binary64.rne (binary32.mag (q.toNat % 2 ^ 31)) binary32.unit)

end Sys2Proof.Machine
end

