-- ==== Sys2Proof/Machine/Numeric.lean ====
section
/-! DEFINITION. The numeric codec commands (41_numeric_codec.md R126 to R138). Each is its rule's pseudocode, checks in
order, over the shared operations of Ops.lean. -/

namespace Sys2Proof.Machine

/-- Decode 16 raw bits as DEC_REG reads them: `(S = 1) ? sext_16(raw) : raw` (R128). -/
def rawReg (sg : Bool) (raw : Nat) : Int := if sg then (BitVec.ofNat 16 raw).toInt else raw

/-- `(S = 1) ? sext_32(u) : u` (R130). -/
def rawLong (sg : Bool) (u : Nat) : Int := if sg then (BitVec.ofNat 32 u).toInt else u

/-- ENC_REG_I (R126). -/
def encRegI (sg : Bool) (d : Nat) (s : State) : Ending :=
  needDecimals d <|
  fit (s.val.toInt * 10 ^ d) sg 16 <|
  setD (be2 (BitVec.ofInt 16 (s.val.toInt * 10 ^ d))) s fun t => .complete t false

/-- ENC_REG_F (R127). -/
def encRegF (sg : Bool) (d : Nat) (s : State) : Ending :=
  needDecimals d <|
  failIf (isNaN64 s.val ∨ isInf64 s.val) { code := .range, field := .value, exp := 0, act := 0 } <|
  failIf (scaleBits s.val d = binary64.infBits) { code := .range, field := .value, exp := 0, act := 0 } <|
  fit (truncInt (sign64 s.val) (scaleBits s.val d)) sg 16 <|
  setD (be2 (BitVec.ofInt 16 (truncInt (sign64 s.val) (scaleBits s.val d)))) s fun t => .complete t false

/-- DEC_REG (R128). -/
def decReg (sg : Bool) (d : Nat) (s : State) : Ending :=
  needDecimals d <|
  needLength 2 s <|
  if d = 0 then .complete (s.setRes (BitVec.ofInt 64 (rawReg sg (unbe s.data))) false) false
  else .complete (s.setRes (quotientBits (rawReg sg (unbe s.data)) d) true) false

/-- ENC_LONG (R129). -/
def encLong (sg : Bool) (bo : ByteOrder) (s : State) : Ending :=
  fit s.val.toInt sg 32 <|
  setD (order bo (be4 (BitVec.ofInt 32 s.val.toInt))) s fun t => .complete t false

/-- DEC_LONG (R130). -/
def decLong (sg : Bool) (bo : ByteOrder) (s : State) : Ending :=
  needLength 4 s <|
  .complete (s.setRes (BitVec.ofInt 64 (rawLong sg (unbe (order bo s.data)))) false) false

/-- ENC_FLOAT (R131). -/
def encFloat (w : FloatWidth) (bo : ByteOrder) (s : State) : Ending :=
  match w with
  | .single =>
    match narrow s.val with
    | none => .fail { code := .range, field := .value, exp := 0, act := 0 }
    | some p => setD (order bo (be4 p)) s fun t => .complete t false
  | .double => setD (order bo (be8 s.val)) s fun t => .complete t false

/-- DEC_FLOAT (R132). -/
def decFloat (w : FloatWidth) (bo : ByteOrder) (s : State) : Ending :=
  needLength (floatBytes w) s <|
  match w with
  | .single => .complete (s.setRes (widen (BitVec.ofNat 32 (unbe (order bo s.data)))) true) false
  | .double => .complete (s.setRes (BitVec.ofNat 64 (unbe (order bo s.data))) true) false

/-- ENC_REGLIST (R133): list count, then capacity, then the entries. -/
def encRegList (s : State) : Ending :=
  failIf (s.vcnt.val ≠ s.cnt.toNat)
    { code := .format, field := .listCount, exp := s.cnt.toNat, act := s.vcnt.val } <|
  failIf (Config.bufSize < 2 * s.cnt.toNat)
    { code := .overflow, field := .capacity, exp := 256, act := (2 * s.cnt.toNat : Nat) } <|
  needEntries 0xFFFF (s.varrList s.cnt.toNat) <|
  setD ((s.varrList s.cnt.toNat).flatMap fun v => be2 (v.setWidth 16)) s fun t => .complete t false

/-- The big-endian registers of a byte list (R134). -/
def regsOf : List Byte → List Word
  | b1 :: b0 :: l => BitVec.ofNat 32 (unbe [b1, b0]) :: regsOf l
  | _ => []

/-- DEC_REGLIST (R134). -/
def decRegList (s : State) : Ending :=
  needLength (2 * s.cnt.toNat) s <|
  .complete (s.putList (regsOf s.data)) false

/-- ENC_BITS (R135). -/
def encBits (s : State) : Ending :=
  needEntries 1 (s.varrList s.vcnt.val) <|
  setD (packBits (ceil8 s.vcnt.val) ((s.varrList s.vcnt.val).map BitVec.toNat)) s fun t => .complete t false

/-- DEC_BITS (R136): `VARR[i] <- DBUF[i div 8][i mod 8]`. -/
def decBits (s : State) : Ending :=
  needLength (ceil8 s.cnt.toNat) s <|
  .complete (s.putList ((List.range s.cnt.toNat).map fun i =>
    (BitVec.ofBool ((s.dbuf (i / 8)).getLsbD (i % 8))).setWidth 32)) false

/-- ENC_COIL (R137). -/
def encCoil (s : State) : Ending :=
  failIf (1 < s.val.toNat) { code := .range, field := .value, exp := 1, act := s.val.toNat } <|
  setD (if s.val = 1 then [0xFF, 0x00] else [0x00, 0x00]) s fun t => .complete t false

/-- WORD_SWAP (R138). -/
def wordSwap (s : State) : Ending :=
  failIf (s.dlen.val % 2 ≠ 0) { code := .format, field := .length, exp := 0, act := s.dlen.val } <|
  setD (swapHalves s.data) s fun t => .complete t false

/-- The outcome of ENC_REG_I. -/
def execEncRegI (sg : Bool) (d : Nat) (s : State) : Host.Outcome State Fault Refusal := s.ends (encRegI sg d s)

/-- The outcome of ENC_REG_F. -/
def execEncRegF (sg : Bool) (d : Nat) (s : State) : Host.Outcome State Fault Refusal := s.ends (encRegF sg d s)

/-- The outcome of DEC_REG. -/
def execDecReg (sg : Bool) (d : Nat) (s : State) : Host.Outcome State Fault Refusal := s.ends (decReg sg d s)

/-- The outcome of ENC_LONG. -/
def execEncLong (sg : Bool) (bo : ByteOrder) (s : State) : Host.Outcome State Fault Refusal := s.ends (encLong sg bo s)

/-- The outcome of DEC_LONG. -/
def execDecLong (sg : Bool) (bo : ByteOrder) (s : State) : Host.Outcome State Fault Refusal := s.ends (decLong sg bo s)

/-- The outcome of ENC_FLOAT. -/
def execEncFloat (w : FloatWidth) (bo : ByteOrder) (s : State) : Host.Outcome State Fault Refusal :=
  s.ends (encFloat w bo s)

/-- The outcome of DEC_FLOAT. -/
def execDecFloat (w : FloatWidth) (bo : ByteOrder) (s : State) : Host.Outcome State Fault Refusal :=
  s.ends (decFloat w bo s)

/-- The outcome of ENC_REGLIST. -/
def execEncRegList (s : State) : Host.Outcome State Fault Refusal := s.ends (encRegList s)

/-- The outcome of DEC_REGLIST. -/
def execDecRegList (s : State) : Host.Outcome State Fault Refusal := s.ends (decRegList s)

/-- The outcome of ENC_BITS. -/
def execEncBits (s : State) : Host.Outcome State Fault Refusal := s.ends (encBits s)

/-- The outcome of DEC_BITS. -/
def execDecBits (s : State) : Host.Outcome State Fault Refusal := s.ends (decBits s)

/-- The outcome of ENC_COIL. -/
def execEncCoil (s : State) : Host.Outcome State Fault Refusal := s.ends (encCoil s)

/-- The outcome of WORD_SWAP. -/
def execWordSwap (s : State) : Host.Outcome State Fault Refusal := s.ends (wordSwap s)

end Sys2Proof.Machine
end

