-- ==== Sys2Proof/Machine/Predict.lean ====
section
/-! DEFINITION. The response size predictor (43_response_size.md): the size-class ROM SZTAB (R220) and PREDICT (R221). -/

namespace Sys2Proof.Machine

/-- The size classes (R220). -/
inductive SizeClass where
  | write | readBits | readRegs | none
deriving DecidableEq, Repr

/-- `SZTAB[FC]` (R34, R220). -/
def szTab (fc : Nat) : SizeClass :=
  if isWrite fc then .write else if isReadBits fc then .readBits else if isReadRegs fc then .readRegs else .none

/-- `N <- unbe(DBUF[2..4))`: the count of a read request's payload (R221). -/
def requestedCount (s : State) : Nat := unbe (s.bytesAt (dbufBase + 2) 2)

/-- PREDICT (R221). -/
def predict (fc : Nat) (s : State) : Ending :=
  match szTab fc with
  | .none => .fail { code := .prediction, field := .predFc, exp := 0, act := fc }
  | .write => .complete (s.setRes 8 false) false
  | .readBits =>
    failIf (s.dlen.val < 4) { code := .prediction, field := .predLength, exp := 4, act := s.dlen.val } <|
    .complete (s.setRes (BitVec.ofNat 64 (5 + ceil8 (requestedCount s))) false) false
  | .readRegs =>
    failIf (s.dlen.val < 4) { code := .prediction, field := .predLength, exp := 4, act := s.dlen.val } <|
    .complete (s.setRes (BitVec.ofNat 64 (5 + 2 * requestedCount s)) false) false

/-- The outcome of PREDICT. -/
def execPredict (fc : Nat) (s : State) : Host.Outcome State Fault Refusal := s.ends (predict fc s)

end Sys2Proof.Machine
end

