-- ==== Sys2Proof/Machine/Dispatch.lean ====
section
/-! DEFINITION. One arm per command (30_encoding.md R88). -/

namespace Sys2Proof.Machine

/-- What a decoded command does. -/
def exec (i : Instr) (s : State) : Host.Outcome State Fault Refusal :=
  match i with
  | .nop => Sys2Proof.Machine.execNop s
  | .crcInit => Sys2Proof.Machine.execCrcInit s
  | .crcByte b => Sys2Proof.Machine.execCrcByte b s
  | .crcData => Sys2Proof.Machine.execCrcData s
  | .encRegI sg d => Sys2Proof.Machine.execEncRegI sg d s
  | .encRegF sg d => Sys2Proof.Machine.execEncRegF sg d s
  | .decReg sg d => Sys2Proof.Machine.execDecReg sg d s
  | .encLong sg bo => Sys2Proof.Machine.execEncLong sg bo s
  | .decLong sg bo => Sys2Proof.Machine.execDecLong sg bo s
  | .encFloat w bo => Sys2Proof.Machine.execEncFloat w bo s
  | .decFloat w bo => Sys2Proof.Machine.execDecFloat w bo s
  | .encRegList => Sys2Proof.Machine.execEncRegList s
  | .decRegList => Sys2Proof.Machine.execDecRegList s
  | .encBits => Sys2Proof.Machine.execEncBits s
  | .decBits => Sys2Proof.Machine.execDecBits s
  | .encCoil => Sys2Proof.Machine.execEncCoil s
  | .wordSwap => Sys2Proof.Machine.execWordSwap s
  | .payloadRead fc => Sys2Proof.Machine.execPayloadRead fc s
  | .payloadWrite fc => Sys2Proof.Machine.execPayloadWrite fc s
  | .buildReq fc => Sys2Proof.Machine.execBuildReq fc s
  | .parseRsp fc => Sys2Proof.Machine.execParseRsp fc s
  | .validateRsp fc => Sys2Proof.Machine.execValidateRsp fc s
  | .predict fc => Sys2Proof.Machine.execPredict fc s
  | .clr => Sys2Proof.Machine.execClr s
  | .srst => Sys2Proof.Machine.execSrst s

end Sys2Proof.Machine
end

