-- ==== Sys2Proof/Machine/Bus.lean ====
section
/-! DEFINITION. The host bus (20_memory.md R60 to R70, 10_state.md R37): the address map, reads, writes, and the
command a CMD write executes. -/

namespace Sys2Proof.Machine

/-- The 18 registers of the map (10_state.md section 2). -/
inductive Reg where
  | id | cmd | status | eexp | eact | addr | raddr | cnt | wval | valLo | valHi | resLo | resHi | crc
  | txlen | rxlen | dlen | vcnt
deriving DecidableEq, Repr

/-- The registers in the order of their offsets 0x000, 0x004, ..., 0x044 (R60). -/
def regMap : List Reg :=
  [.id, .cmd, .status, .eexp, .eact, .addr, .raddr, .cnt, .wval, .valLo, .valHi, .resLo, .resHi, .crc,
    .txlen, .rxlen, .dlen, .vcnt]

/-- What stands at an offset of the window (R60). -/
inductive Region where
  | reg (r : Reg)
  | txb
  | rxb
  | dbuf
  | crctab
  | varr
  /-- A reserved offset, an offset inside a register but not its own, or one outside the window. -/
  | reserved
deriving DecidableEq, Repr

/-- The address map (R60, R61). Registers stand at their 4-byte-aligned offsets only (R62). -/
def region (off : Nat) : Region :=
  if off < 0x48 then
    (if off % 4 = 0 then (regMap[off / 4]?.map .reg).getD .reserved else .reserved)
  else if off < 0x100 then .reserved
  else if off < 0x200 then .txb
  else if off < 0x300 then .rxb
  else if off < 0x400 then .dbuf
  else if off < 0x800 then .crctab
  else if off < 0x2000 then .reserved
  else if off < 0x4000 then .varr
  else .reserved

/-- The value a register read returns (R21 to R32). CMD reads 0 (R22). -/
def State.readReg (s : State) : Reg → Word
  | .id => Config.idValue
  | .cmd => 0
  | .status => s.status.word
  | .eexp => s.eexp
  | .eact => s.eact
  | .addr => s.addr.setWidth 32
  | .raddr => s.raddr.setWidth 32
  | .cnt => s.cnt.setWidth 32
  | .wval => s.wval.setWidth 32
  | .valLo => s.val.extractLsb' 0 32
  | .valHi => s.val.extractLsb' 32 32
  | .resLo => s.res.extractLsb' 0 32
  | .resHi => s.res.extractLsb' 32 32
  | .crc => s.crc.setWidth 32
  | .txlen => BitVec.ofNat 32 s.txlen.val
  | .rxlen => BitVec.ofNat 32 s.rxlen.val
  | .dlen => BitVec.ofNat 32 s.dlen.val
  | .vcnt => BitVec.ofNat 32 s.vcnt.val

/-- The state after an accepted register write other than to CMD, or nothing where the write is refused (R23, R37). -/
def State.writeReg (s : State) (r : Reg) (v : Word) : Option State :=
  match r with
  | .id => none
  | .cmd => none
  | .status =>
    if v &&& 0xFFFFFFFD = 0 then
      some { s with status := { s.status with serr := s.status.serr && !v.getLsbD 1 } }
    else none
  | .eexp => none
  | .eact => none
  | .addr => if v.toNat < 2 ^ 8 then some { s with addr := v.setWidth 8 } else none
  | .raddr => if v.toNat < 2 ^ 16 then some { s with raddr := v.setWidth 16 } else none
  | .cnt => if v.toNat < 2 ^ 16 then some { s with cnt := v.setWidth 16 } else none
  | .wval => if v.toNat < 2 ^ 16 then some { s with wval := v.setWidth 16 } else none
  | .valLo => some { s with val := s.val.extractLsb' 32 32 ++ v }
  | .valHi => some { s with val := v ++ s.val.extractLsb' 0 32 }
  | .resLo => none
  | .resHi => none
  | .crc => if v.toNat < 2 ^ 16 then some { s with crc := v.setWidth 16 } else none
  | .txlen => none
  | .rxlen => if v.toNat ≤ 256 then some { s with rxlen := Fin.ofNat 257 v.toNat } else none
  | .dlen => if v.toNat ≤ 256 then some { s with dlen := Fin.ofNat 257 v.toNat } else none
  | .vcnt => if v.toNat ≤ 2048 then some { s with vcnt := Fin.ofNat 2049 v.toNat } else none

/-- A buffer read of `n` bytes (R63): 1 byte anywhere, 4 bytes aligned, lanes little-endian. -/
def State.readBuf (s : State) (off n : Nat) : Option Word :=
  if n = 1 then some ((s.byteAt off).setWidth 32)
  else if n = 4 ∧ off % 4 = 0 then some (s.wordAt off)
  else none

/-- A buffer write of `n` bytes (R63, R65). -/
def State.writeBuf (s : State) (off n : Nat) (v : Word) : Option State :=
  if n = 1 then some (s.store off [byteOf v 0])
  else if n = 4 ∧ off % 4 = 0 then some (s.store off (le4 v))
  else none

/-- `MemRead(off, n)`: the value, or nothing for BusError (R60 to R64, R66). -/
def State.memRead (s : State) (off n : Nat) : Option Word :=
  match region off with
  | .reg r => if n = 4 then some (s.readReg r) else none
  | .txb => s.readBuf off n
  | .rxb => s.readBuf off n
  | .dbuf => s.readBuf off n
  | .crctab =>
    if n = 4 ∧ off % 4 = 0 then some ((crcTab (BitVec.ofNat 8 ((off - crctabBase) / 4))).setWidth 32) else none
  | .varr => if n = 4 ∧ off % 4 = 0 then some (s.wordAt off) else none
  | .reserved => none

/-- `MemWrite(off, n, v)` other than to CMD: the state after it, or nothing for BusError (R60 to R63, R65, R66). -/
def State.memWrite (s : State) (off n : Nat) (v : Word) : Option State :=
  match region off with
  | .reg r => if n = 4 then s.writeReg r v else none
  | .txb => none
  | .rxb => s.writeBuf off n v
  | .dbuf => s.writeBuf off n v
  | .crctab => none
  | .varr => if n = 4 ∧ off % 4 = 0 then some (s.store off (le4 v)) else none
  | .reserved => none

/-- A 4-byte write of `w` to CMD executes the command `w` before it completes (R22, R70); a word the decoder rejects
fails as R90 says. The bus never refuses it (R37). -/
def State.command (s : State) (w : Word) : Host.Outcome State Fault Refusal :=
  match decode w with
  | .ok i => exec i s.accept
  | .error _ => .next (s.accept.illegal w)

/-- A host read completes: with its value, or with BusError and the value 0 (R66). It changes nothing else (R69). -/
def State.hostRead (s : State) (off n : Nat) : State :=
  match s.memRead off n with
  | some v => { s with resp := .readOk v }
  | none => { s with resp := .readError 0 }

/-- A host write completes: a CMD write executes its command, any other stores, or is refused with BusError and changes
nothing (R66, R69). -/
def State.hostWrite (s : State) (off n : Nat) (v : Word) : Host.Outcome State Fault Refusal :=
  if region off = .reg .cmd ∧ n = 4 then s.command v
  else
    match s.memWrite off n v with
    | some t => .next t.accept
    | none => .next { s with resp := .writeError }

/-- The host's `chk` (R93): `rd STATUS`, and nothing more of its list if ERR = 1 (log 16). -/
def State.hostCheck (s : State) : State :=
  { s with resp := .readOk s.status.word, queue := if s.status.err then [] else s.queue }

/-- One host event (R20, R280), in the state whose `queue` holds the events after it. -/
def State.perform (s : State) : HostEvent → Host.Outcome State Fault Refusal
  | .read off n => .next (s.hostRead off n)
  | .write off n v => s.hostWrite off n v
  | .check => .next s.hostCheck
  | .powerOnReset => .next s.powerOn

/-- The offset of CMD (R22). -/
abbrev cmdOffset : Nat := 0x004

/-- The host's next event is a write of a word to CMD (log 2). -/
def State.issue (s : State) (w : Word) : State := { s with queue := .write cmdOffset 4 w :: s.queue }

end Sys2Proof.Machine
end

