-- ==== Sys2Proof/Machine/Step.lean ====
section
/-! DEFINITION. One step: the block serves the host's next event, one at a time in issue order (10_state.md R20,
20_memory.md R70); with none pending it waits and nothing changes (R20, R282). -/

namespace Sys2Proof.Machine

/-- One step of the machine (log 1). -/
def step (s : State) : Host.Outcome State Fault Refusal :=
  match s.queue with
  | [] => .next s
  | e :: rest => State.perform { s with queue := rest } e

/-- The state whose next step runs the command word `w`: the host's next event is the CMD write that carries it (log 2).
Bits above `nbits` are 0. -/
def State.withFetchWord (s : State) (nbits w : Nat) : State := s.issue (BitVec.ofNat 32 (w % 2 ^ nbits))

end Sys2Proof.Machine
end

