-- ==== Sys2Proof/Machine/HostProgram.lean ====
section
/-! DEFINITION. The assembler syntax of commands (30_encoding.md R92) and the host program notation (R93): functions from
text to commands and from statements to host events. -/

namespace Sys2Proof.Machine

/-- The pieces of a text between separators. -/
def splitAtChar (sep : Char) : List Char → List (List Char)
  | [] => [[]]
  | c :: cs =>
    if c = sep then [] :: splitAtChar sep cs
    else
      match splitAtChar sep cs with
      | [] => [[c]]
      | p :: ps => (c :: p) :: ps

/-- A text without the spaces around it. -/
def trimSpaces (l : List Char) : List Char :=
  ((l.dropWhile (· == ' ')).reverse.dropWhile (· == ' ')).reverse

/-- The value of a digit, up to hexadecimal. -/
def digitValue (c : Char) : Option Nat :=
  if '0' ≤ c ∧ c ≤ '9' then some (c.toNat - 48)
  else if 'a' ≤ c ∧ c ≤ 'f' then some (c.toNat - 87)
  else if 'A' ≤ c ∧ c ≤ 'F' then some (c.toNat - 55)
  else none

/-- The number a list of digits of a base writes, after those read so far. -/
def digitsValue (base : Nat) : (soFar : Nat) → List Char → Option Nat
  | n, [] => some n
  | n, c :: cs =>
    match digitValue c with
    | none => none
    | some k => if k < base then digitsValue base (base * n + k) cs else none

/-- "Values are decimal or `0x` hex" (R92). -/
def numberValue : List Char → Option Nat
  | [] => none
  | '0' :: 'x' :: c :: cs => digitsValue 16 0 (c :: cs)
  | c :: cs => digitsValue 10 0 (c :: cs)

/-- One field of a command's text (R92): `name=value` with the names of its format, or CRC_BYTE's bare byte. A name the
format does not have, or a value its bits cannot hold, is no syntax of the command. -/
def setField (fmt : Format) (f : Fields) (name : List Char) (v : Nat) : Option Fields :=
  match fmt, name with
  | .B, [] => if v < 256 then some { f with imm := BitVec.ofNat 8 v } else none
  | .R, ['s'] => if v < 2 then some { f with sg := v == 1 } else none
  | .R, ['d'] => if v < 16 then some { f with d := BitVec.ofNat 4 v } else none
  | .L, ['s'] => if v < 2 then some { f with sg := v == 1 } else none
  | .L, ['b', 'o'] => if v < 4 then some { f with bo := .ofCode (BitVec.ofNat 2 v) } else none
  | .F, ['w'] => if v < 2 then some { f with w := .ofBit (v == 1) } else none
  | .F, ['b', 'o'] => if v < 4 then some { f with bo := .ofCode (BitVec.ofNat 2 v) } else none
  | .P, ['f', 'c'] => if v < 256 then some { f with imm := BitVec.ofNat 8 v } else none
  | _, _ => none

/-- The fields of a list of `name=value` texts, in any order, the omitted ones 0 (R92). What R92 does not describe is the
model's choice (DESIGN CHOICE, log 22): a repeated field takes the later value, and a bare value and one after an equals
sign with no name before it are read alike, so that `CRC_BYTE =5` is `CRC_BYTE 5`. -/
def parseFields (fmt : Format) : Fields → List (List Char) → Option Fields
  | f, [] => some f
  | f, item :: items =>
    let (name, value) := match splitAtChar '=' item with
      | [v] => ([], trimSpaces v)
      | [n, v] => (trimSpaces n, trimSpaces v)
      | _ => ([], [])
    match numberValue value with
    | none => none
    | some v =>
      match setField fmt f name v with
      | none => none
      | some f' => parseFields fmt f' items

/-- The command a text of the assembler syntax stands for (R92). -/
def assemble (text : List Char) : Option Instr :=
  let t := trimSpaces text
  let mnemonic := t.takeWhile (· != ' ')
  let rest := trimSpaces (t.dropWhile (· != ' '))
  match opcodeMap.find? (fun r => r.name.toList == mnemonic) with
  | none => none
  | some r => (parseFields r.fmt .zero (if rest = [] then [] else splitAtChar ',' rest)).map r.build

/-- The buffers `wrb` writes (R93). -/
inductive HostBuffer where
  | rxb | dbuf
deriving DecidableEq, Repr

/-- Their windows (R60). -/
def HostBuffer.base : HostBuffer → Nat
  | .rxb => rxbBase
  | .dbuf => dbufBase

/-- The statements of a host program (R93). -/
inductive HostStmt where
  | wr (r : Reg) (v : Word)
  | rd (r : Reg)
  | wrb (b : HostBuffer) (i : Nat) (v : Byte)
  | wrv (i : Nat) (v : Word)
  | cmd (text : List Char)
  | ldd (bytes : List Byte)
  | ldrx (bytes : List Byte)
  | ldv (values : List Word)
  | wr64Val (v : DWord)
  | chk
deriving DecidableEq, Repr

/-- `offset(REG)` (R60, R93). -/
def Reg.offset (r : Reg) : Nat := 4 * regMap.idxOf r

/-- `wrb` for each byte, index 0 first, from index `i` (R93). -/
def loadBytes (b : HostBuffer) : (i : Nat) → List Byte → List HostEvent
  | _, [] => []
  | i, v :: vs => .write (b.base + i) 1 (v.setWidth 32) :: loadBytes b (i + 1) vs

/-- `wrv` for each entry, index 0 first, from index `i` (R93). -/
def loadEntries : (i : Nat) → List Word → List HostEvent
  | _, [] => []
  | i, v :: vs => .write (varrBase + 4 * i) 4 v :: loadEntries (i + 1) vs

/-- The accesses a statement stands for (R93); none when a `cmd` text is no command. -/
def HostStmt.events : HostStmt → Option (List HostEvent)
  | .wr r v => some [.write r.offset 4 v]
  | .rd r => some [.read r.offset 4]
  | .wrb b i v => some [.write (b.base + i) 1 (v.setWidth 32)]
  | .wrv i v => some [.write (varrBase + 4 * i) 4 v]
  | .cmd text => (assemble text).map fun i => [.write Reg.cmd.offset 4 (encode i)]
  | .ldd bytes => some (loadBytes .dbuf 0 bytes ++ [.write Reg.dlen.offset 4 (BitVec.ofNat 32 bytes.length)])
  | .ldrx bytes => some (loadBytes .rxb 0 bytes ++ [.write Reg.rxlen.offset 4 (BitVec.ofNat 32 bytes.length)])
  | .ldv values => some (loadEntries 0 values ++ [.write Reg.vcnt.offset 4 (BitVec.ofNat 32 values.length)])
  | .wr64Val v =>
    some [.write Reg.valLo.offset 4 (v.extractLsb' 0 32), .write Reg.valHi.offset 4 (v.extractLsb' 32 32)]
  | .chk => some [.check]

/-- The accesses of a host program, in order (R93). -/
def programEvents : List HostStmt → Option (List HostEvent)
  | [] => some []
  | st :: sts =>
    match st.events, programEvents sts with
    | some es, some rest => some (es ++ rest)
    | _, _ => none

end Sys2Proof.Machine
end

