-- ==== Sys2Proof/Safety.lean ====
section
/-! DEFINITION. The terms the statements use: what a failed and a completed command look like (60_exceptions.md R253,
R254), what a store leaves unchanged, the byte-order tables (41_numeric_codec.md R121, R122), the pairing of codes
(R251, R252), and the invariant of the machine. -/

namespace Sys2Proof.Safety

open Sys2Proof.Machine

/-- STATUS after a command that failed with these codes (R254). -/
def failedStatus (s : State) (ecode efield sxc : Byte) : Status :=
  { err := true, serr := true, resf := s.status.resf, x5 := false, ecode := ecode, efield := efield, sxc := sxc }

/-- STATUS after a command that completed with this RESF and no pass-through (R253). -/
def doneStatus (s : State) (resf : Bool) : Status :=
  { err := false, serr := s.status.serr, resf := resf, x5 := false, ecode := 0, efield := 0, sxc := 0 }

/-- The command answers the state before it with only STATUS, EEXP and EACT changed, to this failure (R250, R254). -/
def Fails (i : Instr) (s : State) (ecode efield : Byte) (exp act : Word) (sxc : Byte := 0) : Prop :=
  exec i s = .next { s with status := failedStatus s ecode efield sxc, eexp := exp, eact := act }

/-- Every byte of storage of `t` is that of `s`, but for the list stored from `base` up. -/
def StoredOnly (s t : State) (base : Nat) (bs : List Byte) : Prop :=
  ∀ a, t.byteAt a = if base ≤ a then (bs[a - base]?).getD (s.byteAt a) else s.byteAt a

/-- The command completes; DBUF begins with this list, DLEN is its length, and nothing else changes but what `Complete`
writes (R120, R253). -/
def FillsData (i : Instr) (s : State) (bs : List Byte) : Prop :=
  ∃ t, exec i s = .next t ∧ StoredOnly s t 0x300 bs ∧ t.dlen.val = bs.length ∧
    t = { s with mem := t.mem, dlen := t.dlen, status := doneStatus s s.status.resf, eexp := 0, eact := 0 }

/-- The command completes; VARR begins with this list, VCNT is its length, and nothing else changes but what `Complete`
writes (R134, R136, R253). -/
def FillsList (i : Instr) (s : State) (ws : List Word) : Prop :=
  ∃ t, exec i s = .next t ∧ (∀ k, t.varr k = (ws[k]?).getD (s.varr k)) ∧
    (∀ a, a < 0x2000 ∨ 0x2000 + 4 * ws.length ≤ a → t.byteAt a = s.byteAt a) ∧ t.vcnt.val = ws.length ∧
    t = { s with mem := t.mem, vcnt := t.vcnt, status := doneStatus s s.status.resf, eexp := 0, eact := 0 }

/-- The command completes; RES and RESF are these, and nothing else changes but what `Complete` writes (R120, R253). -/
def GivesResult (i : Instr) (s : State) (v : DWord) (resf : Bool) : Prop :=
  exec i s = .next { s with res := v, status := doneStatus s resf, eexp := 0, eact := 0 }

/-- The command completes and changes nothing but what `Complete` writes (R253). -/
def OnlyCompletes (i : Instr) (s : State) : Prop :=
  exec i s = .next { s with status := doneStatus s s.status.resf, eexp := 0, eact := 0 }

/-- The table of R121: the bytes on the wire of a 4-byte value, `b0` its most significant byte. -/
def wire4 (bo : ByteOrder) (b0 b1 b2 b3 : Byte) : List Byte :=
  match bo with
  | .big => [b0, b1, b2, b3]
  | .little => [b3, b2, b1, b0]
  | .bigSwapped => [b2, b3, b0, b1]
  | .littleSwapped => [b1, b0, b3, b2]

/-- The table of R122: the bytes on the wire of an 8-byte value. -/
def wire8 (bo : ByteOrder) (b0 b1 b2 b3 b4 b5 b6 b7 : Byte) : List Byte :=
  match bo with
  | .big => [b0, b1, b2, b3, b4, b5, b6, b7]
  | .little => [b7, b6, b5, b4, b3, b2, b1, b0]
  | .bigSwapped => [b4, b5, b6, b7, b0, b1, b2, b3]
  | .littleSwapped => [b3, b2, b1, b0, b7, b6, b5, b4]

/-- The BO codes, as R83 lists them. -/
def boCode : ByteOrder → Nat
  | .big => 0
  | .little => 1
  | .bigSwapped => 2
  | .littleSwapped => 3

/-- The W codes, as R84 lists them. -/
def widthCode : FloatWidth → Nat
  | .single => 0
  | .double => 1

/-- One bit of the generation procedure of CRCTAB (R100). -/
def crcBit (c : Half) : Half := if c.getLsbD 0 then (c >>> 1) ^^^ 0xA001 else c >>> 1

/-- The generation procedure of CRCTAB: eight bits from the index (R100). -/
def crcGenerated (i : Byte) : Half :=
  crcBit (crcBit (crcBit (crcBit (crcBit (crcBit (crcBit (crcBit (i.setWidth 16))))))))

/-- The CRC step and function over the generation procedure in place of the table (R100, R101). -/
def specCrc (l : List Byte) : Half :=
  l.foldl (fun c b => (c >>> 8) ^^^ crcGenerated (c.setWidth 8 ^^^ b)) 0xFFFF

/-- The bytes on the wire, in a byte order, of the low 32 bits of a number (R121). -/
def wireWord (bo : ByteOrder) (n : Nat) : List Byte :=
  wire4 bo (BitVec.ofNat 8 (n / 2 ^ 24)) (BitVec.ofNat 8 (n / 2 ^ 16)) (BitVec.ofNat 8 (n / 2 ^ 8)) (BitVec.ofNat 8 n)

/-- The bytes on the wire, in a byte order, of a 64-bit number (R122). -/
def wireDWord (bo : ByteOrder) (n : Nat) : List Byte :=
  wire8 bo (BitVec.ofNat 8 (n / 2 ^ 56)) (BitVec.ofNat 8 (n / 2 ^ 48)) (BitVec.ofNat 8 (n / 2 ^ 40))
    (BitVec.ofNat 8 (n / 2 ^ 32)) (BitVec.ofNat 8 (n / 2 ^ 24)) (BitVec.ofNat 8 (n / 2 ^ 16))
    (BitVec.ofNat 8 (n / 2 ^ 8)) (BitVec.ofNat 8 n)

/-- `RNE` as R11 describes it, of the rational `n / d`: past the overflow bound it is infinity, and below it the finite
pattern nearest, the even one where two are equally near. -/
def IsRounded (f : Ieee) (bound n d bits : Nat) : Prop :=
  (bound * d ≤ n → bits = f.infBits) ∧
  (n < bound * d → bits < f.infBits ∧ ∀ c, c < f.infBits →
    ((n * f.unit : Nat) - (f.mag bits * d : Nat) : Int).natAbs ≤ ((n * f.unit : Nat) - (f.mag c * d : Nat) : Int).natAbs ∧
    (((n * f.unit : Nat) - (f.mag bits * d : Nat) : Int).natAbs = ((n * f.unit : Nat) - (f.mag c * d : Nat) : Int).natAbs →
      c = bits ∨ bits % 2 = 0))

/-- The offsets of the registers (10_state.md section 2). -/
def regOffset : Reg → Nat
  | .id => 0x000
  | .cmd => 0x004
  | .status => 0x008
  | .eexp => 0x00C
  | .eact => 0x010
  | .addr => 0x014
  | .raddr => 0x018
  | .cnt => 0x01C
  | .wval => 0x020
  | .valLo => 0x024
  | .valHi => 0x028
  | .resLo => 0x02C
  | .resHi => 0x030
  | .crc => 0x034
  | .txlen => 0x038
  | .rxlen => 0x03C
  | .dlen => 0x040
  | .vcnt => 0x044

/-- The number each register reads as (10_state.md section 2, R23 for the places of STATUS's fields). -/
def regValue (s : State) : Reg → Nat
  | .id => 0x4D420007
  | .cmd => 0
  | .status =>
    s.status.err.toNat + 2 * s.status.serr.toNat + 4 * s.status.resf.toNat + 8 * s.status.x5.toNat +
      2 ^ 8 * s.status.ecode.toNat + 2 ^ 16 * s.status.efield.toNat + 2 ^ 24 * s.status.sxc.toNat
  | .eexp => s.eexp.toNat
  | .eact => s.eact.toNat
  | .addr => s.addr.toNat
  | .raddr => s.raddr.toNat
  | .cnt => s.cnt.toNat
  | .wval => s.wval.toNat
  | .valLo => s.val.toNat % 2 ^ 32
  | .valHi => s.val.toNat / 2 ^ 32
  | .resLo => s.res.toNat % 2 ^ 32
  | .resHi => s.res.toNat / 2 ^ 32
  | .crc => s.crc.toNat
  | .txlen => s.txlen.val
  | .rxlen => s.rxlen.val
  | .dlen => s.dlen.val
  | .vcnt => s.vcnt.val

/-- The values a host may write to a register other than CMD and STATUS (R37). -/
def writeLegal (v : Nat) : Reg → Prop
  | .id => False
  | .cmd => False
  | .status => False
  | .eexp => False
  | .eact => False
  | .addr => v ≤ 0xFF
  | .raddr => v ≤ 0xFFFF
  | .cnt => v ≤ 0xFFFF
  | .wval => v ≤ 0xFFFF
  | .valLo => True
  | .valHi => True
  | .resLo => False
  | .resHi => False
  | .crc => v ≤ 0xFFFF
  | .txlen => False
  | .rxlen => v ≤ 256
  | .dlen => v ≤ 256
  | .vcnt => v ≤ 2048

/-- ECODE and EFIELD as R251 and R252 pair them. -/
def codePairs : List (Byte × Byte) := [
  (1, 0x00), (2, 0x01), (2, 0x02), (3, 0x10), (3, 0x11), (4, 0x20), (4, 0x21), (5, 0x43), (6, 0x40), (7, 0x41),
  (8, 0x42), (9, 0x44), (10, 0x44), (11, 0x30), (11, 0x31), (11, 0x32), (11, 0x33), (11, 0x34), (11, 0x35),
  (12, 0x50), (12, 0x51), (13, 0x52), (14, 0x60)]

/-- The error codes each command may raise: the column "raised by" of R251. -/
def raisedBy : Instr → List Byte
  | .nop => []
  | .crcInit => []
  | .crcByte _ => []
  | .crcData => []
  | .encRegI _ _ => [2, 3]
  | .encRegF _ _ => [2, 3]
  | .decReg _ _ => [2, 4]
  | .encLong _ _ => [3]
  | .decLong _ _ => [4]
  | .encFloat _ _ => [3]
  | .decFloat _ _ => [4]
  | .encRegList => [3, 4, 14]
  | .decRegList => [4]
  | .encBits => [3]
  | .decBits => [4]
  | .encCoil => [3]
  | .wordSwap => [4]
  | .payloadRead _ => [2, 13]
  | .payloadWrite _ => [2, 4, 13]
  | .buildReq _ => [13, 14]
  | .parseRsp _ => [5, 6, 7, 8, 9, 10, 13]
  | .validateRsp _ => [11, 13]
  | .predict _ => [12]
  | .clr => []
  | .srst => []

/-- The commands that write DBUF, and with it DLEN (R29, R30): the encoders, WORD_SWAP, the payload builders, PARSE_RSP, and
VALIDATE_RSP of a read (R193, R194). -/
def WritesData : Instr → Prop
  | .nop => False
  | .crcInit => False
  | .crcByte _ => False
  | .crcData => False
  | .encRegI _ _ => True
  | .encRegF _ _ => True
  | .decReg _ _ => False
  | .encLong _ _ => True
  | .decLong _ _ => False
  | .encFloat _ _ => True
  | .decFloat _ _ => False
  | .encRegList => True
  | .decRegList => False
  | .encBits => True
  | .decBits => False
  | .encCoil => True
  | .wordSwap => True
  | .payloadRead _ => True
  | .payloadWrite _ => True
  | .buildReq _ => False
  | .parseRsp _ => True
  | .validateRsp fc => fc ∈ [1, 2, 3, 4]
  | .predict _ => False
  | .clr => False
  | .srst => False

/-- STATUS, EEXP and EACT are what some `Complete` or `Fail` could have left (R23, R24, R251 to R254). -/
def DiagnosticsOk (s : State) : Prop :=
  if s.status.err then
    s.status.x5 = false ∧ (s.status.ecode, s.status.efield) ∈ codePairs ∧
      (if s.status.ecode = 9 ∨ s.status.ecode = 10 then s.eexp = 0 ∧ s.eact = s.status.sxc.setWidth 32
       else s.status.sxc = 0)
  else
    s.status.ecode = 0 ∧ s.status.efield = 0 ∧ s.eexp = 0 ∧ s.eact = 0 ∧
      s.status.sxc = if s.status.x5 then 5 else 0

/-- The invariant: the buffers' memory is in its canonical form, so that nothing is stored outside TXB, RXB, DBUF and
VARR, and the diagnostic registers are consistent. -/
def Inv (s : State) : Prop := s.mem.wf = true ∧ DiagnosticsOk s

/-- Two states with the same registers but STATUS, EEXP and EACT, and the same buffers and pending events. -/
def SameButDiagnostics (s t : State) : Prop :=
  t = { s with status := t.status, eexp := t.eexp, eact := t.eact }

/-- Two states whose registers agree and whose buffers agree on their content: the bytes and entries below the length
registers (R28, R31). -/
def SameContent (s t : State) : Prop :=
  t = { s with mem := t.mem, epoch := t.epoch } ∧
    (∀ k, k < s.txlen.val → t.byteAt (0x100 + k) = s.byteAt (0x100 + k)) ∧
    (∀ k, k < s.dlen.val → t.byteAt (0x300 + k) = s.byteAt (0x300 + k)) ∧
    (∀ k, k < s.rxlen.val → t.byteAt (0x200 + k) = s.byteAt (0x200 + k)) ∧
    (∀ k, k < s.vcnt.val → t.varr k = s.varr k)

/-- The state with a list of bytes in RXB and its length in RXLEN: what the host's `ldrx` leaves of a frame (R93). -/
def withFrame (s : State) (l : List Byte) : State :=
  { s.store 0x200 l with rxlen := Fin.ofNat 257 l.length }

/-- Runs a list of commands one after another (R70). -/
def execAll : List Instr → State → Host.Outcome State Fault Refusal
  | [], s => .next s
  | i :: is, s =>
    match exec i s with
    | .next t => execAll is t
    | .fault r => .fault r
    | .refused r => .refused r

/-- Takes a number of steps, one after another. -/
def steps : Nat → State → Host.Outcome State Fault Refusal
  | 0, s => .next s
  | n + 1, s =>
    match step s with
    | .next t => steps n t
    | .fault r => .fault r
    | .refused r => .refused r

end Sys2Proof.Safety
end

