-- ==== Sys2Proof/Certificates/Slice0/Obligations.lean ====
section
/-! DEFINITION. The statements for the provers: what each command does, where it fails, what it leaves unchanged, and the
rules about the whole machine. Each docstring names the rule of spec/ it formalises. -/

open Sys2Proof Sys2Proof.Machine Sys2Proof.Safety

/-! ## Reset and the invariant -/

/-- R38: every register at its reset value, and each byte of the buffers unspecified. -/
def Obligations.ResetLeavesTheStatedValues : Prop :=
  (∀ r, regValue State.reset r =
    match r with
    | .id => 0x4D420007
    | .crc => 0xFFFF
    | _ => 0) ∧
  State.reset.status = { err := false, serr := false, resf := false, x5 := false, ecode := 0, efield := 0, sxc := 0 } ∧
  (∀ a, State.reset.byteAt a = Config.powerOnByte State.reset.epoch a)

/-- The invariant holds at reset (the memory form is the model's, log 5). -/
def Obligations.InvariantHoldsAtReset : Prop := Safety.Inv State.reset

/-- R23, R24, R251 to R254, R257: every step keeps the memory's canonical form and the diagnostics consistent. -/
def Obligations.EveryStepKeepsTheInvariant : Prop := ∀ s t, Safety.Inv s → step s = .next t → Safety.Inv t

/-- R280, R281: a power-on reset leaves the registers as SRST does and every byte of the buffers unspecified afresh
(the counter that draws them is the model's, log 4, and so is that the later events stay pending, log 20). -/
def Obligations.PowerOnResetsRegistersAndForgetsBuffers : Prop :=
  ∀ s rest, s.queue = .powerOnReset :: rest →
    ∃ t u, step s = .next t ∧ exec .srst s = .next u ∧ (∀ r, regValue t r = regValue u r) ∧ t.queue = rest ∧
      t.epoch ≠ s.epoch ∧ ∀ a, t.byteAt a = Config.powerOnByte t.epoch a

/-! ## Encoding -/

/-- R81, R87, R88, R92: the decoder reads every well-formed command back from its word. -/
def Obligations.DecodingUndoesEncoding : Prop := ∀ i : Instr, i.wf = true → decode (encode i) = .ok i

/-- R87, R89: a word the decoder accepts is the word of the command it reads, so no reserved or unused bit is ignored. -/
def Obligations.EncodingUndoesDecoding : Prop := ∀ w i, decode w = .ok i → i.wf = true ∧ encode i = w

/-- R90: a word of no command fails with ILLEGAL_COMMAND, EACT the word, and changes nothing but STATUS, EEXP and EACT.
(Taking the event from `queue` and answering in `resp` are the model's, logs 1 and 9.) -/
def Obligations.IllegalWordFailsWithTheWord : Prop :=
  ∀ s rest (w : Word), s.queue = .write 0x004 4 w :: rest → (∀ i : Instr, i.wf = true → encode i ≠ w) →
    step s = .next { s with
      queue := rest, resp := .writeOk, status := failedStatus s 1 0x00 0, eexp := 0, eact := w }

/-- R92: the spec's own examples, each text assembled, its word, and what the decoder reads from it. -/
def Obligations.ExampleTextsAssembleAndDecode : Prop :=
  ∀ e ∈ ([("NOP", 0x00000000, .nop), ("CRC_BYTE 0x01", 0x00010011, .crcByte 0x01),
      ("ENC_REG_I s=1, d=2", 0x00002420, .encRegI true 2), ("DEC_LONG s=1, bo=3", 0x00000724, .decLong true .littleSwapped),
      ("ENC_FLOAT w=1, bo=2", 0x00000A25, .encFloat .double .bigSwapped), ("PARSE_RSP fc=3", 0x00030033, .parseRsp 3),
      ("PREDICT fc=16", 0x00100040, .predict 16)] : List (String × Word × Instr)),
    assemble e.1.toList = some e.2.2 ∧ encode e.2.2 = e.2.1 ∧ decode e.2.1 = .ok e.2.2

/-! ## Steps -/

/-- R22: a step whose access writes to CMD a word that decodes runs the command, and the access has then completed; a read
of CMD returns 0 and has no effect. (Taking the event from `queue` and answering in `resp` are the model's, logs 1 and
9.) -/
def Obligations.CmdWriteRunsTheDecodedCommand : Prop :=
  (∀ s rest w i, s.queue = .write 0x004 4 w :: rest → decode w = .ok i →
    step s = exec i { s with queue := rest, resp := .writeOk }) ∧
  ∀ s rest, s.queue = .read 0x004 4 :: rest → step s = .next { s with queue := rest, resp := .readOk 0 }

/-- R261: every command in every state answers a next state. That every step does, a refused access and an empty queue
included, is the model's reading of R66 and R20 (logs 3 and 1). -/
def Obligations.NothingEverStopsTheMachine : Prop :=
  (∀ i s, ∃ t, exec i s = .next t) ∧ ∀ s, ∃ t, step s = .next t

/-- R70 (log 1): no later access can affect an earlier one: an event does with others behind it what it does alone. -/
def Obligations.LaterAccessesCannotAffectAnEvent : Prop :=
  ∀ s e rest, s.queue = e :: rest → e ≠ .check →
    ∃ t, step { s with queue := [e] } = .next t ∧ step s = .next { t with queue := rest }

/-! ## Commands as a whole -/

/-- R250, R254: a failing command changes only STATUS, EEXP and EACT; RESF stays, SERR is set, X5 is cleared. -/
def Obligations.FailingCommandChangesOnlyDiagnostics : Prop :=
  ∀ i s t, exec i s = .next t → t.status.err = true →
    t = { s with
      status := failedStatus s t.status.ecode t.status.efield t.status.sxc, eexp := t.eexp, eact := t.eact }

/-- R253: the diagnostics after a command that completes. -/
def Obligations.CompletingCommandClearsDiagnostics : Prop :=
  ∀ i s t, exec i s = .next t → i ≠ .srst → t.status.err = false →
    t.status.ecode = 0 ∧ t.status.efield = 0 ∧ t.eexp = 0 ∧ t.eact = 0 ∧
    t.status.sxc = (if t.status.x5 then 5 else 0) ∧ t.status.serr = s.status.serr ∧
    (t.status.x5 = true → ∃ fc, i = .parseRsp fc) ∧
    (t.status.resf ≠ s.status.resf →
      i = .crcData ∨ (∃ sg d, i = .decReg sg d) ∨ (∃ sg bo, i = .decLong sg bo) ∨ (∃ w bo, i = .decFloat w bo) ∨
        ∃ fc, i = .predict fc)

/-- R251, R252: each command raises only the error codes its row names, with a field code the code is paired with. -/
def Obligations.EachCommandRaisesOnlyItsCodes : Prop :=
  ∀ i s t, exec i s = .next t → t.status.err = true →
    t.status.ecode ∈ raisedBy i ∧ (t.status.ecode, t.status.efield) ∈ codePairs

/-- R35: no command reads STATUS, EEXP or EACT: two states that differ only there give next states that differ at most in
SERR and RESF. -/
def Obligations.CommandsIgnoreEarlierOutcomes : Prop :=
  ∀ i s s' t, SameButDiagnostics s s' → exec i s = .next t →
    ∃ t', exec i s' = .next t' ∧
      t' = { t with status := { t.status with serr := t'.status.serr, resf := t'.status.resf } }

/-- R28, R31: no command reads a byte or entry at or past its length register: two states with the same registers and
the same content give next states with the same registers and the same content, TXB, RXB, DBUF and VARR alike. -/
def Obligations.CommandsReadOnlyContent : Prop :=
  ∀ i s s' t, SameContent s s' → exec i s = .next t → ∃ t', exec i s' = .next t' ∧ SameContent t t'

/-- R25, R26, R27, R29, R30: ADDR, RADDR, CNT, VAL and RXLEN are written by no command but SRST, RXB by none at all; and
no command touches the host's pending events or the model's counter (logs 1, 4). -/
def Obligations.CommandsKeepHostRegisters : Prop :=
  ∀ i s t, exec i s = .next t →
    (i ≠ .srst → t.addr = s.addr ∧ t.raddr = s.raddr ∧ t.cnt = s.cnt ∧ t.val = s.val ∧ t.rxlen = s.rxlen) ∧
    (∀ a, 0x200 ≤ a → a < 0x300 → t.byteAt a = s.byteAt a) ∧
    t.epoch = s.epoch ∧ t.queue = s.queue ∧ t.resp = s.resp

/-- R26, R27, R29, R30, R31, R32: who writes TXB and TXLEN, DBUF and DLEN, CRC, RES, WVAL, VARR and VCNT. (That CRC_DATA
is among the writers of CRC is log 21.) -/
def Obligations.OnlyNamedCommandsWriteEachRegister : Prop :=
  ∀ i s t, exec i s = .next t → i ≠ .srst →
    ((t.txlen ≠ s.txlen ∨ ∃ a, 0x100 ≤ a ∧ a < 0x200 ∧ t.byteAt a ≠ s.byteAt a) → ∃ fc, i = .buildReq fc) ∧
    ((∃ a, 0x300 ≤ a ∧ a < 0x400 ∧ t.byteAt a ≠ s.byteAt a) → WritesData i) ∧
    (t.dlen ≠ s.dlen → WritesData i ∨ i = .clr) ∧
    (t.crc ≠ s.crc → i = .crcInit ∨ (∃ b, i = .crcByte b) ∨ i = .crcData) ∧
    (t.res ≠ s.res →
      i = .crcData ∨ (∃ sg d, i = .decReg sg d) ∨ (∃ sg bo, i = .decLong sg bo) ∨ (∃ w bo, i = .decFloat w bo) ∨
        ∃ fc, i = .predict fc) ∧
    (t.wval ≠ s.wval → i = .payloadWrite 5 ∨ i = .payloadWrite 6) ∧
    (t.vcnt ≠ s.vcnt → i = .decRegList ∨ i = .decBits ∨ i = .clr) ∧
    ((∃ a, 0x2000 ≤ a ∧ t.byteAt a ≠ s.byteAt a) → i = .decRegList ∨ i = .decBits) ∧
    (∀ a, (a < 0x100 ∨ (0x400 ≤ a ∧ a < 0x2000) ∨ 0x4000 ≤ a) → t.byteAt a = s.byteAt a)

/-! ## Control -/

/-- R240. -/
def Obligations.NopOnlyClearsDiagnostics : Prop :=
  encode .nop = 0x00000000 ∧ ∀ s, OnlyCompletes .nop s

/-- R241: the lengths become 0; no byte of any buffer changes. -/
def Obligations.ClrDropsTheLengths : Prop :=
  encode .clr = 0x000000F0 ∧
  ∀ s, exec .clr s = .next { s with
    dlen := 0, vcnt := 0, status := doneStatus s s.status.resf, eexp := 0, eact := 0 }

/-- R242: every register takes its reset value, SERR and RESF included, and the buffers keep their bytes. (That `queue`,
`resp` and `epoch` are kept is the model's, log 20.) -/
def Obligations.SrstRestoresTheRegisters : Prop :=
  encode .srst = 0x000000FF ∧
  ∀ s, ∃ t, exec .srst s = .next t ∧ (∀ r, regValue t r = regValue State.reset r) ∧
    (∀ a, t.byteAt a = s.byteAt a) ∧
    t = { State.reset with mem := t.mem, epoch := s.epoch, queue := s.queue, resp := s.resp }

/-! ## CRC engine -/

/-- R100: the table is the one the procedure generates. -/
def Obligations.CrcTableFollowsTheProcedure : Prop := ∀ i, crcTab i = crcGenerated i

/-- R103. -/
def Obligations.CrcInitSetsTheRegister : Prop :=
  encode .crcInit = 0x00000010 ∧
  ∀ s, exec .crcInit s = .next { s with
    crc := 0xFFFF, status := doneStatus s s.status.resf, eexp := 0, eact := 0 }

/-- R101, R104: one byte through the register, in terms of the generation procedure of R100. -/
def Obligations.CrcByteAdvancesTheRegister : Prop :=
  (∀ b : Byte, (encode (.crcByte b)).toNat = 0x11 + 2 ^ 16 * b.toNat) ∧
  ∀ b s, exec (.crcByte b) s = .next { s with
    crc := (s.crc >>> 8) ^^^ crcGenerated (s.crc.setWidth 8 ^^^ b)
    status := doneStatus s s.status.resf, eexp := 0, eact := 0 }

/-- R105: CRC_DATA writes the CRC of DBUF into CRC as well as RES (log 21). -/
def Obligations.CrcDataWritesCrcAndResult : Prop :=
  encode .crcData = 0x00000012 ∧
  ∀ s, exec .crcData s = .next { s with
    crc := specCrc (s.bytesAt 0x300 s.dlen.val)
    res := BitVec.ofNat 64 (specCrc (s.bytesAt 0x300 s.dlen.val)).toNat
    status := doneStatus s false, eexp := 0, eact := 0 }

/-- R102, R104, corner cases: CRC_INIT and then CRC_BYTE on each byte of a list give its CRC, and going on over its
trailer, low byte first, gives 0. -/
def Obligations.BytewiseCrcIsTheListCrc : Prop :=
  ∀ (l : List Byte) s,
    execAll (.crcInit :: l.map .crcByte) s = .next { s with
      crc := specCrc l, status := doneStatus s s.status.resf, eexp := 0, eact := 0 } ∧
    execAll (.crcInit :: (l ++ [(specCrc l).extractLsb' 0 8, (specCrc l).extractLsb' 8 8]).map .crcByte) s =
      .next { s with crc := 0, status := doneStatus s s.status.resf, eexp := 0, eact := 0 }

/-! ## Numeric codec: single registers -/

/-- R126, R139. -/
def Obligations.EncRegIScalesAndChecks : Prop :=
  (∀ sg d, d < 16 → (encode (.encRegI sg d)).toNat = 0x20 + 2 ^ 10 * sg.toNat + 2 ^ 12 * d) ∧
  ∀ sg d s,
    let n : Int := s.val.toInt * 10 ^ d
    let lo : Int := if sg then -32768 else 0
    let hi : Int := if sg then 32767 else 65535
    (10 < d → Fails (.encRegI sg d) s 2 0x02 10 (BitVec.ofNat 32 d)) ∧
    (d ≤ 10 → n < lo → Fails (.encRegI sg d) s 3 0x10 (BitVec.ofInt 32 lo) (BitVec.ofInt 32 n)) ∧
    (d ≤ 10 → hi < n → Fails (.encRegI sg d) s 3 0x10 (BitVec.ofInt 32 hi) (BitVec.ofInt 32 n)) ∧
    (d ≤ 10 → lo ≤ n → n ≤ hi → FillsData (.encRegI sg d) s [BitVec.ofInt 8 (n / 256), BitVec.ofInt 8 n])

/-- R127, R139, R142: `p` is the product rounded once, `n` its integer part toward zero. -/
def Obligations.EncRegFScalesTruncatesAndChecks : Prop :=
  (∀ sg d, d < 16 → (encode (.encRegF sg d)).toNat = 0x21 + 2 ^ 10 * sg.toNat + 2 ^ 12 * d) ∧
  ∀ sg d s,
    let m := s.val.toNat % 2 ^ 63
    let p := binary64.rne (binary64.mag m * 10 ^ d) binary64.unit
    let q : Int := (binary64.mag p / binary64.unit : Nat)
    let n : Int := if s.val.getLsbD 63 then -q else q
    let lo : Int := if sg then -32768 else 0
    let hi : Int := if sg then 32767 else 65535
    (10 < d → Fails (.encRegF sg d) s 2 0x02 10 (BitVec.ofNat 32 d)) ∧
    (d ≤ 10 → 0x7FF0000000000000 ≤ m → Fails (.encRegF sg d) s 3 0x10 0 0) ∧
    (d ≤ 10 → m < 0x7FF0000000000000 → 0x7FF0000000000000 ≤ p → Fails (.encRegF sg d) s 3 0x10 0 0) ∧
    (d ≤ 10 → m < 0x7FF0000000000000 → p < 0x7FF0000000000000 → n < lo →
      Fails (.encRegF sg d) s 3 0x10 (BitVec.ofInt 32 lo) (BitVec.ofInt 32 n)) ∧
    (d ≤ 10 → m < 0x7FF0000000000000 → p < 0x7FF0000000000000 → hi < n →
      Fails (.encRegF sg d) s 3 0x10 (BitVec.ofInt 32 hi) (BitVec.ofInt 32 n)) ∧
    (d ≤ 10 → m < 0x7FF0000000000000 → p < 0x7FF0000000000000 → lo ≤ n → n ≤ hi →
      FillsData (.encRegF sg d) s [BitVec.ofInt 8 (n / 256), BitVec.ofInt 8 n])

/-- R128, R142: `r` is the register, signed or not; with decimals the quotient is rounded once. -/
def Obligations.DecRegGivesIntegerOrQuotient : Prop :=
  (∀ sg d, d < 16 → (encode (.decReg sg d)).toNat = 0x22 + 2 ^ 10 * sg.toNat + 2 ^ 12 * d) ∧
  ∀ sg d s,
    let raw : Nat := 256 * (s.byteAt 0x300).toNat + (s.byteAt 0x301).toNat
    let r : Int := if sg = true ∧ 0x8000 ≤ raw then (raw : Int) - 0x10000 else (raw : Int)
    (10 < d → Fails (.decReg sg d) s 2 0x02 10 (BitVec.ofNat 32 d)) ∧
    (d ≤ 10 → s.dlen.val ≠ 2 → Fails (.decReg sg d) s 4 0x20 2 (BitVec.ofNat 32 s.dlen.val)) ∧
    (d = 0 → s.dlen.val = 2 → GivesResult (.decReg sg d) s (BitVec.ofInt 64 r) false) ∧
    (0 < d → d ≤ 10 → s.dlen.val = 2 →
      GivesResult (.decReg sg d) s
        (BitVec.ofNat 64 (binary64.rne r.natAbs (10 ^ d) + if r < 0 then 2 ^ 63 else 0)) true)

/-! ## Numeric codec: longs and floats -/

/-- R83, R121, R129, R139. -/
def Obligations.EncLongChecksAndOrders : Prop :=
  (∀ sg (bo : ByteOrder), (encode (.encLong sg bo)).toNat = 0x23 + 2 ^ 8 * boCode bo + 2 ^ 10 * sg.toNat) ∧
  ∀ sg bo s,
    let v := s.val.toInt
    let lo : Int := if sg then -2 ^ 31 else 0
    let hi : Int := if sg then 2 ^ 31 - 1 else 2 ^ 32 - 1
    (v < lo → Fails (.encLong sg bo) s 3 0x10 (BitVec.ofInt 32 lo) (BitVec.ofInt 32 v)) ∧
    (hi < v → Fails (.encLong sg bo) s 3 0x10 (BitVec.ofInt 32 hi) (BitVec.ofInt 32 v)) ∧
    (lo ≤ v → v ≤ hi → FillsData (.encLong sg bo) s (wireWord bo (s.val.toNat % 2 ^ 32)))

/-- R83, R121, R130: the four bytes on the wire, read in their order, as a signed or unsigned 32-bit integer. -/
def Obligations.DecLongReadsEachOrder : Prop :=
  (∀ sg (bo : ByteOrder), (encode (.decLong sg bo)).toNat = 0x24 + 2 ^ 8 * boCode bo + 2 ^ 10 * sg.toNat) ∧
  (∀ sg bo s, s.dlen.val ≠ 4 → Fails (.decLong sg bo) s 4 0x20 4 (BitVec.ofNat 32 s.dlen.val)) ∧
  ∀ sg bo s (u : Nat), s.dlen.val = 4 → u < 2 ^ 32 → s.bytesAt 0x300 4 = wireWord bo u →
    GivesResult (.decLong sg bo) s
      (BitVec.ofInt 64 (if sg = true ∧ 2 ^ 31 ≤ u then (u : Int) - 2 ^ 32 else u)) false

/-- R83, R84, R131, R140: binary32 is rounded once, NaNs made quiet, overflow refused; binary64 is copied. -/
def Obligations.EncFloatNarrowsAndOrders : Prop :=
  (∀ (w : FloatWidth) (bo : ByteOrder),
    (encode (.encFloat w bo)).toNat = 0x25 + 2 ^ 8 * boCode bo + 2 ^ 11 * widthCode w) ∧
  ∀ bo s,
    let m := s.val.toNat % 2 ^ 63
    let sign := s.val.toNat / 2 ^ 63 * 2 ^ 31
    let p := binary32.rne (binary64.mag m) binary64.unit
    FillsData (.encFloat .double bo) s (wireDWord bo s.val.toNat) ∧
    (0x7FF0000000000000 < m →
      FillsData (.encFloat .single bo) s (wireWord bo (sign + 0x7FC00000 + m / 2 ^ 29 % 2 ^ 22))) ∧
    (m = 0x7FF0000000000000 → FillsData (.encFloat .single bo) s (wireWord bo (sign + 0x7F800000))) ∧
    (m < 0x7FF0000000000000 → 0x7F800000 ≤ p → Fails (.encFloat .single bo) s 3 0x10 0 0) ∧
    (m < 0x7FF0000000000000 → p < 0x7F800000 → FillsData (.encFloat .single bo) s (wireWord bo (sign + p)))

/-- R83, R84, R132, R141: binary32 is widened exactly, NaNs made quiet; binary64 is copied. -/
def Obligations.DecFloatWidensExactly : Prop :=
  (∀ (w : FloatWidth) (bo : ByteOrder),
    (encode (.decFloat w bo)).toNat = 0x26 + 2 ^ 8 * boCode bo + 2 ^ 11 * widthCode w) ∧
  (∀ w bo s, s.dlen.val ≠ (match w with | .single => 4 | .double => 8) →
    Fails (.decFloat w bo) s 4 0x20 (match w with | .single => 4 | .double => 8) (BitVec.ofNat 32 s.dlen.val)) ∧
  (∀ bo s (u : Nat), s.dlen.val = 8 → u < 2 ^ 64 → s.bytesAt 0x300 8 = wireDWord bo u →
    GivesResult (.decFloat .double bo) s (BitVec.ofNat 64 u) true) ∧
  ∀ bo s (u : Nat), s.dlen.val = 4 → u < 2 ^ 32 → s.bytesAt 0x300 4 = wireWord bo u →
    (0x7F800000 < u % 2 ^ 31 → GivesResult (.decFloat .single bo) s
      (BitVec.ofNat 64 (u / 2 ^ 31 * 2 ^ 63 + (0x7FF8000000000000 ||| u % 2 ^ 23 * 2 ^ 29))) true) ∧
    (u % 2 ^ 31 = 0x7F800000 → GivesResult (.decFloat .single bo) s
      (BitVec.ofNat 64 (u / 2 ^ 31 * 2 ^ 63 + 0x7FF0000000000000)) true) ∧
    (u % 2 ^ 31 < 0x7F800000 → ∃ p, p < 0x7FF0000000000000 ∧
      binary64.mag p * binary32.unit = binary32.mag (u % 2 ^ 31) * binary64.unit ∧
      GivesResult (.decFloat .single bo) s (BitVec.ofNat 64 (u / 2 ^ 31 * 2 ^ 63 + p)) true)

/-- R130, R131, R132, I11: a long that ENC_LONG accepts comes back from DEC_LONG in the same order and signedness, and a
binary64 pattern comes back bit for bit, NaNs included. -/
def Obligations.LongsAndDoublesRoundTrip : Prop :=
  (∀ sg bo s t, exec (.encLong sg bo) s = .next t → t.status.err = false →
    ∃ u, exec (.decLong sg bo) t = .next u ∧ u.res = s.val ∧ u.status.err = false ∧ u.status.resf = false) ∧
  ∀ bo s, ∃ t u, exec (.encFloat .double bo) s = .next t ∧ exec (.decFloat .double bo) t = .next u ∧
    u.res = s.val ∧ u.status.err = false ∧ u.status.resf = true

/-- R11: the rounding of both formats is to the nearest datum, ties to the even one, with the stated overflow bounds. -/
def Obligations.RoundingIsToNearestEven : Prop :=
  ∀ n d, 0 < d →
    IsRounded binary64 (2 ^ 1024 - 2 ^ 970) n d (binary64.rne n d) ∧
    IsRounded binary32 (2 ^ 128 - 2 ^ 103) n d (binary32.rne n d)

/-- R141: narrowing undoes widening for every binary32 pattern that is not a signalling NaN. -/
def Obligations.NarrowingUndoesWidening : Prop :=
  ∀ q : Word, ¬ (0x7F800000 < q.toNat % 2 ^ 31 ∧ q.getLsbD 22 = false) → narrow (widen q) = some q

/-! ## Numeric codec: lists, coil and word swap -/

/-- R133: list count, then capacity, then the first entry that is no 16-bit register. -/
def Obligations.EncRegListConcatenatesWords : Prop :=
  encode .encRegList = 0x00000027 ∧
  ∀ s,
    let n := s.cnt.toNat
    (s.vcnt.val ≠ n → Fails .encRegList s 4 0x21 (BitVec.ofNat 32 n) (BitVec.ofNat 32 s.vcnt.val)) ∧
    (s.vcnt.val = n → 128 < n → Fails .encRegList s 14 0x60 256 (BitVec.ofNat 32 (2 * n))) ∧
    (s.vcnt.val = n → n ≤ 128 → ∀ k, k < n → 0xFFFF < (s.varr k).toNat → (∀ j, j < k → (s.varr j).toNat ≤ 0xFFFF) →
      Fails .encRegList s 3 0x11 (BitVec.ofNat 32 k) (s.varr k)) ∧
    (s.vcnt.val = n → n ≤ 128 → (∀ k, k < n → (s.varr k).toNat ≤ 0xFFFF) →
      FillsData .encRegList s ((List.range n).flatMap fun k =>
        [BitVec.ofNat 8 ((s.varr k).toNat / 256), BitVec.ofNat 8 (s.varr k).toNat]))

/-- R134. -/
def Obligations.DecRegListReadsBigEndianWords : Prop :=
  encode .decRegList = 0x00000028 ∧
  ∀ s,
    let n := s.cnt.toNat
    (s.dlen.val ≠ 2 * n → Fails .decRegList s 4 0x20 (BitVec.ofNat 32 (2 * n)) (BitVec.ofNat 32 s.dlen.val)) ∧
    (s.dlen.val = 2 * n → FillsList .decRegList s ((List.range n).map fun k =>
      BitVec.ofNat 32 (256 * (s.byteAt (0x300 + 2 * k)).toNat + (s.byteAt (0x300 + 2 * k + 1)).toNat)))

/-- R135: bit `i` of the list is bit `i mod 8` of byte `i div 8`, and the padding is 0. -/
def Obligations.EncBitsPacksLowBitFirst : Prop :=
  encode .encBits = 0x00000029 ∧
  (∀ s k, k < s.vcnt.val → 1 < (s.varr k).toNat → (∀ j, j < k → (s.varr j).toNat ≤ 1) →
    Fails .encBits s 3 0x11 (BitVec.ofNat 32 k) (s.varr k)) ∧
  ∀ s, (∀ k, k < s.vcnt.val → (s.varr k).toNat ≤ 1) →
    ∃ bs : List Byte, FillsData .encBits s bs ∧ bs.length = (s.vcnt.val + 7) / 8 ∧
      ∀ j k b, bs[j]? = some b → k < 8 → b.getLsbD k = (decide (8 * j + k < s.vcnt.val) && s.varr (8 * j + k) == 1)

/-- R136. -/
def Obligations.DecBitsUnpacksLowBitFirst : Prop :=
  encode .decBits = 0x0000002A ∧
  ∀ s,
    let n := s.cnt.toNat
    (s.dlen.val ≠ (n + 7) / 8 →
      Fails .decBits s 4 0x20 (BitVec.ofNat 32 ((n + 7) / 8)) (BitVec.ofNat 32 s.dlen.val)) ∧
    (s.dlen.val = (n + 7) / 8 → FillsList .decBits s ((List.range n).map fun k =>
      if (s.byteAt (0x300 + k / 8)).getLsbD (k % 8) then 1 else 0))

/-- R135, R136: a bit list packed and unpacked with its own count comes back. -/
def Obligations.BitListRoundTrip : Prop :=
  ∀ s t, exec .encBits s = .next t → t.status.err = false →
    ∃ u, exec .decBits { t with cnt := BitVec.ofNat 16 s.vcnt.val } = .next u ∧ u.status.err = false ∧
      u.vcnt = s.vcnt ∧ ∀ k, k < s.vcnt.val → u.varr k = s.varr k

/-- R137. -/
def Obligations.EncCoilWritesTheModbusValue : Prop :=
  encode .encCoil = 0x0000002B ∧
  ∀ s,
    (1 < s.val.toNat → Fails .encCoil s 3 0x10 1 (BitVec.ofNat 32 s.val.toNat)) ∧
    (s.val = 1 → FillsData .encCoil s [0xFF, 0x00]) ∧
    (s.val = 0 → FillsData .encCoil s [0x00, 0x00])

/-- R124, R138: the halves change places; twice restores DBUF. -/
def Obligations.WordSwapExchangesTheHalves : Prop :=
  encode .wordSwap = 0x0000002C ∧
  ∀ s,
    let h := s.dlen.val / 2
    (s.dlen.val % 2 = 1 → Fails .wordSwap s 4 0x20 0 (BitVec.ofNat 32 s.dlen.val)) ∧
    (s.dlen.val % 2 = 0 → FillsData .wordSwap s (s.bytesAt (0x300 + h) h ++ s.bytesAt 0x300 h)) ∧
    (s.dlen.val % 2 = 0 → ∃ t u, exec .wordSwap s = .next t ∧ exec .wordSwap t = .next u ∧
      ∀ a, u.byteAt a = s.byteAt a)

/-! ## Frame codec -/

/-- R171, R172. -/
def Obligations.PayloadReadBuildsTheRequest : Prop :=
  (∀ fc, fc < 256 → (encode (.payloadRead fc)).toNat = 0x30 + 2 ^ 16 * fc) ∧
  ∀ fc s,
    let n := s.cnt.toNat
    let most := if fc = 1 ∨ fc = 2 then 2000 else 125
    (fc ∉ [1, 2, 3, 4] → Fails (.payloadRead fc) s 13 0x52 0 (BitVec.ofNat 32 fc)) ∧
    (fc ∈ [1, 2, 3, 4] → n < 1 → Fails (.payloadRead fc) s 2 0x01 1 (BitVec.ofNat 32 n)) ∧
    (fc ∈ [1, 2, 3, 4] → most < n → Fails (.payloadRead fc) s 2 0x01 (BitVec.ofNat 32 most) (BitVec.ofNat 32 n)) ∧
    (fc ∈ [1, 2, 3, 4] → 1 ≤ n → n ≤ most → FillsData (.payloadRead fc) s
      [s.raddr.extractLsb' 8 8, s.raddr.extractLsb' 0 8, s.cnt.extractLsb' 8 8, s.cnt.extractLsb' 0 8])

/-- R173, and R171 for its functions: 5 and 6 send the two data bytes and remember them in WVAL; 15 and 16 check the count,
then the length, and put address, count and byte count before the data; any other function is refused. -/
def Obligations.PayloadWriteBuildsTheRequest : Prop :=
  (∀ fc, fc < 256 → (encode (.payloadWrite fc)).toNat = 0x31 + 2 ^ 16 * fc) ∧
  (∀ fc s, fc ∉ [5, 6, 15, 16] → Fails (.payloadWrite fc) s 13 0x52 0 (BitVec.ofNat 32 fc)) ∧
  (∀ fc s, fc ∈ [5, 6] →
    (s.dlen.val ≠ 2 → Fails (.payloadWrite fc) s 4 0x20 2 (BitVec.ofNat 32 s.dlen.val)) ∧
    (s.dlen.val = 2 → ∃ t, exec (.payloadWrite fc) s = .next t ∧
      StoredOnly s t 0x300
        [s.raddr.extractLsb' 8 8, s.raddr.extractLsb' 0 8, s.byteAt 0x300, s.byteAt 0x301] ∧
      t = { s with
        mem := t.mem, dlen := 4, wval := s.byteAt 0x300 ++ s.byteAt 0x301
        status := doneStatus s s.status.resf, eexp := 0, eact := 0 })) ∧
  ∀ fc s, fc ∈ [15, 16] →
    let n := s.cnt.toNat
    let most := if fc = 15 then 1968 else 123
    let nb := if fc = 15 then (n + 7) / 8 else 2 * n
    (n < 1 → Fails (.payloadWrite fc) s 2 0x01 1 (BitVec.ofNat 32 n)) ∧
    (most < n → Fails (.payloadWrite fc) s 2 0x01 (BitVec.ofNat 32 most) (BitVec.ofNat 32 n)) ∧
    (1 ≤ n → n ≤ most → s.dlen.val ≠ nb →
      Fails (.payloadWrite fc) s 4 0x20 (BitVec.ofNat 32 nb) (BitVec.ofNat 32 s.dlen.val)) ∧
    (1 ≤ n → n ≤ most → s.dlen.val = nb → FillsData (.payloadWrite fc) s
      ([s.raddr.extractLsb' 8 8, s.raddr.extractLsb' 0 8, s.cnt.extractLsb' 8 8, s.cnt.extractLsb' 0 8,
        BitVec.ofNat 8 nb] ++ s.bytesAt 0x300 nb))

/-- R102, R175: address, function code, payload and the trailer low byte first, in TXB. -/
def Obligations.BuildReqAssemblesTheFrame : Prop :=
  (∀ fc, fc < 256 → (encode (.buildReq fc)).toNat = 0x32 + 2 ^ 16 * fc) ∧
  ∀ fc s,
    let body : List Byte := [s.addr, BitVec.ofNat 8 fc] ++ s.bytesAt 0x300 s.dlen.val
    let c := specCrc body
    (fc ∉ [1, 2, 3, 4, 5, 6, 15, 16] → Fails (.buildReq fc) s 13 0x52 0 (BitVec.ofNat 32 fc)) ∧
    (fc ∈ [1, 2, 3, 4, 5, 6, 15, 16] → 252 < s.dlen.val →
      Fails (.buildReq fc) s 14 0x60 256 (BitVec.ofNat 32 (s.dlen.val + 4))) ∧
    (fc ∈ [1, 2, 3, 4, 5, 6, 15, 16] → s.dlen.val ≤ 252 → ∃ t, exec (.buildReq fc) s = .next t ∧
      StoredOnly s t 0x100 (body ++ [c.extractLsb' 0 8, c.extractLsb' 8 8]) ∧ t.txlen.val = s.dlen.val + 4 ∧
      t = { s with mem := t.mem, txlen := t.txlen, status := doneStatus s s.status.resf, eexp := 0, eact := 0 })

/-- R180 to R188: the checks in order, each reported only where those before it pass; a frame that passes them all leaves
its payload in DBUF, and exception code 5 passes through with X5 = 1 and SXC = 5. -/
def Obligations.ParseRspChecksInOrderAndExtracts : Prop :=
  (∀ fc, fc < 256 → (encode (.parseRsp fc)).toNat = 0x33 + 2 ^ 16 * fc) ∧
  ∀ fc s,
    let n := s.rxlen.val
    let comp := specCrc (s.bytesAt 0x200 (n - 2))
    let recv := s.byteAt (0x200 + n - 1) ++ s.byteAt (0x200 + n - 2)
    let f := s.byteAt 0x201
    let code := s.byteAt 0x202
    let ok := fc ∈ [1, 2, 3, 4, 5, 6, 15, 16]
    (¬ ok → Fails (.parseRsp fc) s 13 0x52 0 (BitVec.ofNat 32 fc)) ∧
    (ok → n < 4 → Fails (.parseRsp fc) s 5 0x43 4 (BitVec.ofNat 32 n)) ∧
    (ok → 4 ≤ n → comp ≠ recv → Fails (.parseRsp fc) s 6 0x40 (comp.setWidth 32) (recv.setWidth 32)) ∧
    (ok → 4 ≤ n → comp = recv → s.byteAt 0x200 ≠ s.addr →
      Fails (.parseRsp fc) s 7 0x41 (s.addr.setWidth 32) ((s.byteAt 0x200).setWidth 32)) ∧
    (ok → 4 ≤ n → comp = recv → s.byteAt 0x200 = s.addr → f.getLsbD 7 = true →
      code.toNat ∈ [1, 2, 3, 4, 6, 7, 8, 10, 11] →
      Fails (.parseRsp fc) s 9 0x44 0 (code.setWidth 32) code) ∧
    (ok → 4 ≤ n → comp = recv → s.byteAt 0x200 = s.addr → f.getLsbD 7 = true →
      code.toNat ∉ [1, 2, 3, 4, 5, 6, 7, 8, 10, 11] →
      Fails (.parseRsp fc) s 10 0x44 0 (code.setWidth 32) code) ∧
    (ok → 4 ≤ n → comp = recv → s.byteAt 0x200 = s.addr → (f.getLsbD 7 = true → code = 5) → f.toNat % 128 ≠ fc →
      Fails (.parseRsp fc) s 8 0x42 (BitVec.ofNat 32 fc) (BitVec.ofNat 32 (f.toNat % 128))) ∧
    (ok → 4 ≤ n → comp = recv → s.byteAt 0x200 = s.addr → (f.getLsbD 7 = true → code = 5) → f.toNat % 128 = fc →
      ∃ t, exec (.parseRsp fc) s = .next t ∧ StoredOnly s t 0x300 (s.bytesAt 0x202 (n - 4)) ∧ t.dlen.val = n - 4 ∧
        t = { s with
          mem := t.mem, dlen := t.dlen, eexp := 0, eact := 0
          status := { doneStatus s s.status.resf with x5 := f.getLsbD 7, sxc := if f.getLsbD 7 then 5 else 0 } })

/-- R190 to R196: a read response's byte count and length are checked and its byte count stripped; a write response's echoes
of address, and of value or count, are checked and DBUF is left as it is. -/
def Obligations.ValidateRspChecksAndStrips : Prop :=
  (∀ fc, fc < 256 → (encode (.validateRsp fc)).toNat = 0x34 + 2 ^ 16 * fc) ∧
  (∀ fc s, fc ∉ [1, 2, 3, 4, 5, 6, 15, 16] → Fails (.validateRsp fc) s 13 0x52 0 (BitVec.ofNat 32 fc)) ∧
  (∀ fc s, fc ∈ [1, 2, 3, 4] →
    let n := s.dlen.val
    let want := if fc = 1 ∨ fc = 2 then (s.cnt.toNat + 7) / 8 else 2 * s.cnt.toNat
    let bc := (s.byteAt 0x300).toNat
    (n < 1 → Fails (.validateRsp fc) s 11 0x35 1 (BitVec.ofNat 32 n)) ∧
    (1 ≤ n → bc ≠ n - 1 → Fails (.validateRsp fc) s 11 0x30 (BitVec.ofNat 32 (n - 1)) (BitVec.ofNat 32 bc)) ∧
    (1 ≤ n → bc = n - 1 → n - 1 ≠ want →
      Fails (.validateRsp fc) s 11 0x31 (BitVec.ofNat 32 want) (BitVec.ofNat 32 (n - 1))) ∧
    (1 ≤ n → bc = n - 1 → n - 1 = want → FillsData (.validateRsp fc) s (s.bytesAt 0x301 (n - 1)))) ∧
  ∀ fc s, fc ∈ [5, 6, 15, 16] →
    let n := s.dlen.val
    let a := 256 * (s.byteAt 0x300).toNat + (s.byteAt 0x301).toNat
    let v := 256 * (s.byteAt 0x302).toNat + (s.byteAt 0x303).toNat
    let single := fc ∈ [5, 6]
    (n ≠ 4 → Fails (.validateRsp fc) s 11 0x35 4 (BitVec.ofNat 32 n)) ∧
    (n = 4 → a ≠ s.raddr.toNat →
      Fails (.validateRsp fc) s 11 0x32 (s.raddr.setWidth 32) (BitVec.ofNat 32 a)) ∧
    (n = 4 → a = s.raddr.toNat → single → v ≠ s.wval.toNat →
      Fails (.validateRsp fc) s 11 0x33 (s.wval.setWidth 32) (BitVec.ofNat 32 v)) ∧
    (n = 4 → a = s.raddr.toNat → ¬ single → v ≠ s.cnt.toNat →
      Fails (.validateRsp fc) s 11 0x34 (s.cnt.setWidth 32) (BitVec.ofNat 32 v)) ∧
    (n = 4 → a = s.raddr.toNat → (single → v = s.wval.toNat) → (¬ single → v = s.cnt.toNat) →
      OnlyCompletes (.validateRsp fc) s)

/-- R174, R175, R180: a request parsed as a response gives back the payload it was built around. -/
def Obligations.BuiltFrameParsesBack : Prop :=
  ∀ fc s t, exec (.buildReq fc) s = .next t → t.status.err = false →
    ∃ u, exec (.parseRsp fc) (withFrame t (t.bytesAt 0x100 t.txlen.val)) = .next u ∧ u.status.err = false ∧
      u.status.x5 = false ∧ u.dlen = s.dlen ∧ u.bytesAt 0x300 s.dlen.val = s.bytesAt 0x300 s.dlen.val

/-- R182: changing any one byte of a frame whose CRC is right, and so any single bit, makes it fail the CRC check. -/
def Obligations.CorruptedByteFailsTheChecksum : Prop :=
  ∀ fc (s : State) k (b : Byte), fc ∈ [1, 2, 3, 4, 5, 6, 15, 16] → 4 ≤ s.rxlen.val →
    specCrc (s.bytesAt 0x200 (s.rxlen.val - 2)) =
      s.byteAt (0x200 + s.rxlen.val - 1) ++ s.byteAt (0x200 + s.rxlen.val - 2) →
    k < s.rxlen.val → b ≠ s.byteAt (0x200 + k) →
    ∃ comp recv, comp ≠ recv ∧ Fails (.parseRsp fc) (s.store (0x200 + k) [b]) 6 0x40 comp recv

/-! ## Predictor -/

/-- R220, R221. -/
def Obligations.PredictGivesTheResponseSize : Prop :=
  (∀ fc, fc < 256 → (encode (.predict fc)).toNat = 0x40 + 2 ^ 16 * fc) ∧
  ∀ fc s,
    let n := 256 * (s.byteAt 0x302).toNat + (s.byteAt 0x303).toNat
    (fc ∈ [5, 6, 15, 16] → GivesResult (.predict fc) s 8 false) ∧
    (fc ∈ [1, 2, 3, 4] → s.dlen.val < 4 → Fails (.predict fc) s 12 0x51 4 (BitVec.ofNat 32 s.dlen.val)) ∧
    (fc ∈ [1, 2] → 4 ≤ s.dlen.val → GivesResult (.predict fc) s (BitVec.ofNat 64 (5 + (n + 7) / 8)) false) ∧
    (fc ∈ [3, 4] → 4 ≤ s.dlen.val → GivesResult (.predict fc) s (BitVec.ofNat 64 (5 + 2 * n)) false) ∧
    (fc ∉ [1, 2, 3, 4, 5, 6, 15, 16] → Fails (.predict fc) s 12 0x50 0 (BitVec.ofNat 32 fc))

/-! ## The host bus

That a step takes the next of the host's pending accesses from `queue` (log 1) and answers it in `resp` (log 9), a refusal
included (log 3), is the model's form of these rules. -/

/-- R66, R257: a refused access changes no state of the block, and a refused read returns 0. (That the step goes on, with
the error in `resp`, is logs 3 and 9.) -/
def Obligations.RefusedAccessChangesNothing : Prop :=
  ∀ s e rest t, s.queue = e :: rest → step s = .next t →
    (t.resp = .writeError → t = { s with queue := rest, resp := .writeError } ∧ ∃ off n v, e = .write off n v) ∧
    (∀ v, t.resp = .readError v →
      v = 0 ∧ t = { s with queue := rest, resp := .readError 0 } ∧ ∃ off n, e = .read off n)

/-- R69: a read changes nothing of the block, whatever it returns (the answer is in `resp`, logs 1 and 9). -/
def Obligations.ReadsHaveNoSideEffect : Prop :=
  ∀ s off n rest, s.queue = .read off n :: rest → ∃ r, step s = .next { s with queue := rest, resp := r }

/-- R21 to R32, R62: every register reads at its own offset as the number its fields make, by 4-byte accesses only
(the answers are in `resp`, logs 1, 3 and 9). -/
def Obligations.RegistersReadAtTheirOffsets : Prop :=
  ∀ s n rest r, s.queue = .read (regOffset r) n :: rest →
    (n = 4 → step s = .next { s with queue := rest, resp := .readOk (BitVec.ofNat 32 (regValue s r)) }) ∧
    (n ≠ 4 → step s = .next { s with queue := rest, resp := .readError 0 })

/-- R23, R37: a legal value is stored and reads back, and every other register keeps its own; an illegal one, or a register
the host may not write, is refused. STATUS takes 0, which does nothing, and 2, which clears SERR; a CMD write is accepted
whatever its value (the answers are in `resp`, logs 1, 3 and 9). -/
def Obligations.RegisterWritesAreCheckedAndStored : Prop :=
  (∀ s r v rest, s.queue = .write (regOffset r) 4 v :: rest → r ≠ .cmd → r ≠ .status →
    (¬ writeLegal v.toNat r → step s = .next { s with queue := rest, resp := .writeError }) ∧
    (writeLegal v.toNat r → ∃ t, step s = .next t ∧ t.resp = .writeOk ∧ t.queue = rest ∧ regValue t r = v.toNat ∧
      (∀ r', r' ≠ r → regValue t r' = regValue s r') ∧ t.mem = s.mem ∧ t.epoch = s.epoch)) ∧
  (∀ s v rest, s.queue = .write 0x008 4 v :: rest →
    (v = 0 → step s = .next { s with queue := rest, resp := .writeOk }) ∧
    (v = 2 → step s = .next { s with
      queue := rest, resp := .writeOk, status := { s.status with serr := false } }) ∧
    (v ≠ 0 → v ≠ 2 → step s = .next { s with queue := rest, resp := .writeError })) ∧
  ∀ s v rest, s.queue = .write 0x004 4 v :: rest → ∃ t, step s = .next t ∧ t.resp = .writeOk

/-- R60, R63, R64: reads of the three byte buffers: one byte anywhere, four bytes little-endian at aligned offsets
(the answers are in `resp`, logs 1, 3 and 9). -/
def Obligations.BufferReadsAreLittleEndian : Prop :=
  ∀ s off n rest, s.queue = .read off n :: rest → 0x100 ≤ off → off < 0x400 →
    (n = 1 → step s = .next { s with queue := rest, resp := .readOk ((s.byteAt off).setWidth 32) }) ∧
    (n = 4 → off % 4 = 0 → step s = .next { s with
      queue := rest
      resp := .readOk (s.byteAt (off + 3) ++ s.byteAt (off + 2) ++ s.byteAt (off + 1) ++ s.byteAt off) }) ∧
    ((n ≠ 1 ∧ n ≠ 4) ∨ (n = 4 ∧ off % 4 ≠ 0) → step s = .next { s with queue := rest, resp := .readError 0 })

/-- R60, R61, R63, R65: writes of RXB and DBUF store exactly the addressed bytes and no length; TXB is read-only
(the answers are in `resp`, logs 1, 3 and 9). -/
def Obligations.BufferWritesStoreOnlyTheirBytes : Prop :=
  ∀ s off n v rest, s.queue = .write off n v :: rest → 0x100 ≤ off → off < 0x400 →
    (0x200 ≤ off → n = 1 → ∃ t, step s = .next t ∧ StoredOnly s t off [v.extractLsb' 0 8] ∧
      t = { s with queue := rest, resp := .writeOk, mem := t.mem }) ∧
    (0x200 ≤ off → n = 4 → off % 4 = 0 → ∃ t, step s = .next t ∧
      StoredOnly s t off [v.extractLsb' 0 8, v.extractLsb' 8 8, v.extractLsb' 16 8, v.extractLsb' 24 8] ∧
      t = { s with queue := rest, resp := .writeOk, mem := t.mem }) ∧
    (off < 0x200 ∨ (n ≠ 1 ∧ n ≠ 4) ∨ (n = 4 ∧ off % 4 ≠ 0) →
      step s = .next { s with queue := rest, resp := .writeError })

/-- R31, R33, R60, R62: VARR entries and CRCTAB entries by aligned 4-byte accesses, CRCTAB read-only (the answers are
in `resp`, logs 1, 3 and 9). -/
def Obligations.TableWindowsHoldWholeEntries : Prop :=
  (∀ s k v rest, k < 2048 → s.queue = .write (0x2000 + 4 * k) 4 v :: rest →
    ∃ t, step s = .next t ∧ t.varr k = v ∧ (∀ j, j ≠ k → t.varr j = s.varr j) ∧
      (∀ a, a < 0x2000 + 4 * k ∨ 0x2000 + 4 * k + 4 ≤ a → t.byteAt a = s.byteAt a) ∧
      t = { s with queue := rest, resp := .writeOk, mem := t.mem }) ∧
  (∀ s k rest, k < 2048 → s.queue = .read (0x2000 + 4 * k) 4 :: rest →
    step s = .next { s with queue := rest, resp := .readOk (s.varr k) }) ∧
  (∀ s k rest, k < 256 → s.queue = .read (0x400 + 4 * k) 4 :: rest →
    step s = .next { s with queue := rest, resp := .readOk ((crcGenerated (BitVec.ofNat 8 k)).setWidth 32) }) ∧
  (∀ s off n v rest, 0x400 ≤ off → off < 0x800 → s.queue = .write off n v :: rest →
    step s = .next { s with queue := rest, resp := .writeError })

/-- R60, R61, R62: reserved offsets, offsets outside the window, and widths or alignments a window does not take are
refused, reads and writes alike (the answers are in `resp`, logs 1, 3 and 9). -/
def Obligations.RestOfTheMapIsRefused : Prop :=
  ∀ s off n rest,
    ((0x48 ≤ off ∧ off < 0x100) ∨ (0x800 ≤ off ∧ off < 0x2000) ∨ 0x4000 ≤ off ∨ (n ≠ 1 ∧ n ≠ 4) ∨
      ((off < 0x48 ∨ (0x400 ≤ off ∧ off < 0x4000)) ∧ (n ≠ 4 ∨ off % 4 ≠ 0))) →
    (s.queue = .read off n :: rest → step s = .next { s with queue := rest, resp := .readError 0 }) ∧
    (∀ v, s.queue = .write off n v :: rest → step s = .next { s with queue := rest, resp := .writeError })

/-- R93: what the load statements and `wr64` leave when the block has served the accesses they stand for, and what `chk`
does (that the rest of the host's list is dropped is the model's reading, log 16). -/
def Obligations.HostStatementsLoadAndCheck : Prop :=
  (∀ (l : List Byte) (s : State), l.length ≤ 256 → ∃ es t, (HostStmt.ldd l).events = some es ∧
    steps es.length { s with queue := es } = .next t ∧ StoredOnly s t 0x300 l ∧
    t = { s with queue := [], resp := .writeOk, mem := t.mem, dlen := Fin.ofNat 257 l.length }) ∧
  (∀ (l : List Byte) (s : State), l.length ≤ 256 → ∃ es t, (HostStmt.ldrx l).events = some es ∧
    steps es.length { s with queue := es } = .next t ∧ StoredOnly s t 0x200 l ∧
    t = { s with queue := [], resp := .writeOk, mem := t.mem, rxlen := Fin.ofNat 257 l.length }) ∧
  (∀ (l : List Word) (s : State), l.length ≤ 2048 → ∃ es t, (HostStmt.ldv l).events = some es ∧
    steps es.length { s with queue := es } = .next t ∧ (∀ k, t.varr k = (l[k]?).getD (s.varr k)) ∧
    (∀ a, a < 0x2000 ∨ 0x2000 + 4 * l.length ≤ a → t.byteAt a = s.byteAt a) ∧
    t = { s with queue := [], resp := .writeOk, mem := t.mem, vcnt := Fin.ofNat 2049 l.length }) ∧
  (∀ (v : DWord) (s : State), ∃ es, (HostStmt.wr64Val v).events = some es ∧
    steps es.length { s with queue := es } = .next { s with queue := [], resp := .writeOk, val := v }) ∧
  ∀ s rest, s.queue = .check :: rest → step s = .next { s with
    queue := if s.status.err then [] else rest, resp := .readOk (BitVec.ofNat 32 (regValue s .status)) }
end

