-- ==== Sys2Proof/Laws/State.lean ====
section
/-! SUPPORT. One lemma per field per update of State and of STATUS, each true by rfl, so that no later proof unfolds a
record update. -/

namespace Sys2Proof.Machine

variable (s : State)

@[simp] theorem State.store_status (base : Nat) (bs : List Byte) : (s.store base bs).status = s.status := rfl
@[simp] theorem State.store_eexp (base : Nat) (bs : List Byte) : (s.store base bs).eexp = s.eexp := rfl
@[simp] theorem State.store_eact (base : Nat) (bs : List Byte) : (s.store base bs).eact = s.eact := rfl
@[simp] theorem State.store_addr (base : Nat) (bs : List Byte) : (s.store base bs).addr = s.addr := rfl
@[simp] theorem State.store_raddr (base : Nat) (bs : List Byte) : (s.store base bs).raddr = s.raddr := rfl
@[simp] theorem State.store_cnt (base : Nat) (bs : List Byte) : (s.store base bs).cnt = s.cnt := rfl
@[simp] theorem State.store_wval (base : Nat) (bs : List Byte) : (s.store base bs).wval = s.wval := rfl
@[simp] theorem State.store_val (base : Nat) (bs : List Byte) : (s.store base bs).val = s.val := rfl
@[simp] theorem State.store_res (base : Nat) (bs : List Byte) : (s.store base bs).res = s.res := rfl
@[simp] theorem State.store_crc (base : Nat) (bs : List Byte) : (s.store base bs).crc = s.crc := rfl
@[simp] theorem State.store_txlen (base : Nat) (bs : List Byte) : (s.store base bs).txlen = s.txlen := rfl
@[simp] theorem State.store_rxlen (base : Nat) (bs : List Byte) : (s.store base bs).rxlen = s.rxlen := rfl
@[simp] theorem State.store_dlen (base : Nat) (bs : List Byte) : (s.store base bs).dlen = s.dlen := rfl
@[simp] theorem State.store_vcnt (base : Nat) (bs : List Byte) : (s.store base bs).vcnt = s.vcnt := rfl
@[simp] theorem State.store_mem (base : Nat) (bs : List Byte) : (s.store base bs).mem = s.mem.write base bs := rfl
@[simp] theorem State.store_epoch (base : Nat) (bs : List Byte) : (s.store base bs).epoch = s.epoch := rfl
@[simp] theorem State.store_queue (base : Nat) (bs : List Byte) : (s.store base bs).queue = s.queue := rfl
@[simp] theorem State.store_resp (base : Nat) (bs : List Byte) : (s.store base bs).resp = s.resp := rfl

@[simp] theorem State.putData_status (l : List Byte) : (s.putData l).status = s.status := rfl
@[simp] theorem State.putData_eexp (l : List Byte) : (s.putData l).eexp = s.eexp := rfl
@[simp] theorem State.putData_eact (l : List Byte) : (s.putData l).eact = s.eact := rfl
@[simp] theorem State.putData_addr (l : List Byte) : (s.putData l).addr = s.addr := rfl
@[simp] theorem State.putData_raddr (l : List Byte) : (s.putData l).raddr = s.raddr := rfl
@[simp] theorem State.putData_cnt (l : List Byte) : (s.putData l).cnt = s.cnt := rfl
@[simp] theorem State.putData_wval (l : List Byte) : (s.putData l).wval = s.wval := rfl
@[simp] theorem State.putData_val (l : List Byte) : (s.putData l).val = s.val := rfl
@[simp] theorem State.putData_res (l : List Byte) : (s.putData l).res = s.res := rfl
@[simp] theorem State.putData_crc (l : List Byte) : (s.putData l).crc = s.crc := rfl
@[simp] theorem State.putData_txlen (l : List Byte) : (s.putData l).txlen = s.txlen := rfl
@[simp] theorem State.putData_rxlen (l : List Byte) : (s.putData l).rxlen = s.rxlen := rfl
@[simp] theorem State.putData_dlen (l : List Byte) : (s.putData l).dlen = Fin.ofNat 257 l.length := rfl
@[simp] theorem State.putData_vcnt (l : List Byte) : (s.putData l).vcnt = s.vcnt := rfl
@[simp] theorem State.putData_mem (l : List Byte) : (s.putData l).mem = s.mem.write dbufBase l := rfl
@[simp] theorem State.putData_epoch (l : List Byte) : (s.putData l).epoch = s.epoch := rfl
@[simp] theorem State.putData_queue (l : List Byte) : (s.putData l).queue = s.queue := rfl
@[simp] theorem State.putData_resp (l : List Byte) : (s.putData l).resp = s.resp := rfl

@[simp] theorem State.putFrame_status (l : List Byte) : (s.putFrame l).status = s.status := rfl
@[simp] theorem State.putFrame_eexp (l : List Byte) : (s.putFrame l).eexp = s.eexp := rfl
@[simp] theorem State.putFrame_eact (l : List Byte) : (s.putFrame l).eact = s.eact := rfl
@[simp] theorem State.putFrame_addr (l : List Byte) : (s.putFrame l).addr = s.addr := rfl
@[simp] theorem State.putFrame_raddr (l : List Byte) : (s.putFrame l).raddr = s.raddr := rfl
@[simp] theorem State.putFrame_cnt (l : List Byte) : (s.putFrame l).cnt = s.cnt := rfl
@[simp] theorem State.putFrame_wval (l : List Byte) : (s.putFrame l).wval = s.wval := rfl
@[simp] theorem State.putFrame_val (l : List Byte) : (s.putFrame l).val = s.val := rfl
@[simp] theorem State.putFrame_res (l : List Byte) : (s.putFrame l).res = s.res := rfl
@[simp] theorem State.putFrame_crc (l : List Byte) : (s.putFrame l).crc = s.crc := rfl
@[simp] theorem State.putFrame_txlen (l : List Byte) : (s.putFrame l).txlen = Fin.ofNat 257 l.length := rfl
@[simp] theorem State.putFrame_rxlen (l : List Byte) : (s.putFrame l).rxlen = s.rxlen := rfl
@[simp] theorem State.putFrame_dlen (l : List Byte) : (s.putFrame l).dlen = s.dlen := rfl
@[simp] theorem State.putFrame_vcnt (l : List Byte) : (s.putFrame l).vcnt = s.vcnt := rfl
@[simp] theorem State.putFrame_mem (l : List Byte) : (s.putFrame l).mem = s.mem.write txbBase l := rfl
@[simp] theorem State.putFrame_epoch (l : List Byte) : (s.putFrame l).epoch = s.epoch := rfl
@[simp] theorem State.putFrame_queue (l : List Byte) : (s.putFrame l).queue = s.queue := rfl
@[simp] theorem State.putFrame_resp (l : List Byte) : (s.putFrame l).resp = s.resp := rfl

@[simp] theorem State.putList_status (l : List Word) : (s.putList l).status = s.status := rfl
@[simp] theorem State.putList_eexp (l : List Word) : (s.putList l).eexp = s.eexp := rfl
@[simp] theorem State.putList_eact (l : List Word) : (s.putList l).eact = s.eact := rfl
@[simp] theorem State.putList_addr (l : List Word) : (s.putList l).addr = s.addr := rfl
@[simp] theorem State.putList_raddr (l : List Word) : (s.putList l).raddr = s.raddr := rfl
@[simp] theorem State.putList_cnt (l : List Word) : (s.putList l).cnt = s.cnt := rfl
@[simp] theorem State.putList_wval (l : List Word) : (s.putList l).wval = s.wval := rfl
@[simp] theorem State.putList_val (l : List Word) : (s.putList l).val = s.val := rfl
@[simp] theorem State.putList_res (l : List Word) : (s.putList l).res = s.res := rfl
@[simp] theorem State.putList_crc (l : List Word) : (s.putList l).crc = s.crc := rfl
@[simp] theorem State.putList_txlen (l : List Word) : (s.putList l).txlen = s.txlen := rfl
@[simp] theorem State.putList_rxlen (l : List Word) : (s.putList l).rxlen = s.rxlen := rfl
@[simp] theorem State.putList_dlen (l : List Word) : (s.putList l).dlen = s.dlen := rfl
@[simp] theorem State.putList_vcnt (l : List Word) : (s.putList l).vcnt = Fin.ofNat 2049 l.length := rfl
@[simp] theorem State.putList_mem (l : List Word) : (s.putList l).mem = s.mem.write varrBase (l.flatMap le4) := rfl
@[simp] theorem State.putList_epoch (l : List Word) : (s.putList l).epoch = s.epoch := rfl
@[simp] theorem State.putList_queue (l : List Word) : (s.putList l).queue = s.queue := rfl
@[simp] theorem State.putList_resp (l : List Word) : (s.putList l).resp = s.resp := rfl

@[simp] theorem State.setRes_status (v : DWord) (f : Bool) : (s.setRes v f).status = { s.status with resf := f } := rfl
@[simp] theorem State.setRes_eexp (v : DWord) (f : Bool) : (s.setRes v f).eexp = s.eexp := rfl
@[simp] theorem State.setRes_eact (v : DWord) (f : Bool) : (s.setRes v f).eact = s.eact := rfl
@[simp] theorem State.setRes_addr (v : DWord) (f : Bool) : (s.setRes v f).addr = s.addr := rfl
@[simp] theorem State.setRes_raddr (v : DWord) (f : Bool) : (s.setRes v f).raddr = s.raddr := rfl
@[simp] theorem State.setRes_cnt (v : DWord) (f : Bool) : (s.setRes v f).cnt = s.cnt := rfl
@[simp] theorem State.setRes_wval (v : DWord) (f : Bool) : (s.setRes v f).wval = s.wval := rfl
@[simp] theorem State.setRes_val (v : DWord) (f : Bool) : (s.setRes v f).val = s.val := rfl
@[simp] theorem State.setRes_res (v : DWord) (f : Bool) : (s.setRes v f).res = v := rfl
@[simp] theorem State.setRes_crc (v : DWord) (f : Bool) : (s.setRes v f).crc = s.crc := rfl
@[simp] theorem State.setRes_txlen (v : DWord) (f : Bool) : (s.setRes v f).txlen = s.txlen := rfl
@[simp] theorem State.setRes_rxlen (v : DWord) (f : Bool) : (s.setRes v f).rxlen = s.rxlen := rfl
@[simp] theorem State.setRes_dlen (v : DWord) (f : Bool) : (s.setRes v f).dlen = s.dlen := rfl
@[simp] theorem State.setRes_vcnt (v : DWord) (f : Bool) : (s.setRes v f).vcnt = s.vcnt := rfl
@[simp] theorem State.setRes_mem (v : DWord) (f : Bool) : (s.setRes v f).mem = s.mem := rfl
@[simp] theorem State.setRes_epoch (v : DWord) (f : Bool) : (s.setRes v f).epoch = s.epoch := rfl
@[simp] theorem State.setRes_queue (v : DWord) (f : Bool) : (s.setRes v f).queue = s.queue := rfl
@[simp] theorem State.setRes_resp (v : DWord) (f : Bool) : (s.setRes v f).resp = s.resp := rfl

@[simp] theorem State.complete_status (x5 : Bool) : (s.complete x5).status = s.status.completed x5 := rfl
@[simp] theorem State.complete_eexp (x5 : Bool) : (s.complete x5).eexp = 0 := rfl
@[simp] theorem State.complete_eact (x5 : Bool) : (s.complete x5).eact = 0 := rfl
@[simp] theorem State.complete_addr (x5 : Bool) : (s.complete x5).addr = s.addr := rfl
@[simp] theorem State.complete_raddr (x5 : Bool) : (s.complete x5).raddr = s.raddr := rfl
@[simp] theorem State.complete_cnt (x5 : Bool) : (s.complete x5).cnt = s.cnt := rfl
@[simp] theorem State.complete_wval (x5 : Bool) : (s.complete x5).wval = s.wval := rfl
@[simp] theorem State.complete_val (x5 : Bool) : (s.complete x5).val = s.val := rfl
@[simp] theorem State.complete_res (x5 : Bool) : (s.complete x5).res = s.res := rfl
@[simp] theorem State.complete_crc (x5 : Bool) : (s.complete x5).crc = s.crc := rfl
@[simp] theorem State.complete_txlen (x5 : Bool) : (s.complete x5).txlen = s.txlen := rfl
@[simp] theorem State.complete_rxlen (x5 : Bool) : (s.complete x5).rxlen = s.rxlen := rfl
@[simp] theorem State.complete_dlen (x5 : Bool) : (s.complete x5).dlen = s.dlen := rfl
@[simp] theorem State.complete_vcnt (x5 : Bool) : (s.complete x5).vcnt = s.vcnt := rfl
@[simp] theorem State.complete_mem (x5 : Bool) : (s.complete x5).mem = s.mem := rfl
@[simp] theorem State.complete_epoch (x5 : Bool) : (s.complete x5).epoch = s.epoch := rfl
@[simp] theorem State.complete_queue (x5 : Bool) : (s.complete x5).queue = s.queue := rfl
@[simp] theorem State.complete_resp (x5 : Bool) : (s.complete x5).resp = s.resp := rfl

@[simp] theorem State.fail_status (f : Failure) : (s.fail f).status = s.status.failed f := rfl
@[simp] theorem State.fail_eexp (f : Failure) : (s.fail f).eexp = BitVec.ofInt 32 f.exp := rfl
@[simp] theorem State.fail_eact (f : Failure) : (s.fail f).eact = BitVec.ofInt 32 f.act := rfl
@[simp] theorem State.fail_addr (f : Failure) : (s.fail f).addr = s.addr := rfl
@[simp] theorem State.fail_raddr (f : Failure) : (s.fail f).raddr = s.raddr := rfl
@[simp] theorem State.fail_cnt (f : Failure) : (s.fail f).cnt = s.cnt := rfl
@[simp] theorem State.fail_wval (f : Failure) : (s.fail f).wval = s.wval := rfl
@[simp] theorem State.fail_val (f : Failure) : (s.fail f).val = s.val := rfl
@[simp] theorem State.fail_res (f : Failure) : (s.fail f).res = s.res := rfl
@[simp] theorem State.fail_crc (f : Failure) : (s.fail f).crc = s.crc := rfl
@[simp] theorem State.fail_txlen (f : Failure) : (s.fail f).txlen = s.txlen := rfl
@[simp] theorem State.fail_rxlen (f : Failure) : (s.fail f).rxlen = s.rxlen := rfl
@[simp] theorem State.fail_dlen (f : Failure) : (s.fail f).dlen = s.dlen := rfl
@[simp] theorem State.fail_vcnt (f : Failure) : (s.fail f).vcnt = s.vcnt := rfl
@[simp] theorem State.fail_mem (f : Failure) : (s.fail f).mem = s.mem := rfl
@[simp] theorem State.fail_epoch (f : Failure) : (s.fail f).epoch = s.epoch := rfl
@[simp] theorem State.fail_queue (f : Failure) : (s.fail f).queue = s.queue := rfl
@[simp] theorem State.fail_resp (f : Failure) : (s.fail f).resp = s.resp := rfl

@[simp] theorem State.softReset_status : (s.softReset).status = .zero := rfl
@[simp] theorem State.softReset_eexp : (s.softReset).eexp = 0 := rfl
@[simp] theorem State.softReset_eact : (s.softReset).eact = 0 := rfl
@[simp] theorem State.softReset_addr : (s.softReset).addr = 0 := rfl
@[simp] theorem State.softReset_raddr : (s.softReset).raddr = 0 := rfl
@[simp] theorem State.softReset_cnt : (s.softReset).cnt = 0 := rfl
@[simp] theorem State.softReset_wval : (s.softReset).wval = 0 := rfl
@[simp] theorem State.softReset_val : (s.softReset).val = 0 := rfl
@[simp] theorem State.softReset_res : (s.softReset).res = 0 := rfl
@[simp] theorem State.softReset_crc : (s.softReset).crc = 0xFFFF := rfl
@[simp] theorem State.softReset_txlen : (s.softReset).txlen = 0 := rfl
@[simp] theorem State.softReset_rxlen : (s.softReset).rxlen = 0 := rfl
@[simp] theorem State.softReset_dlen : (s.softReset).dlen = 0 := rfl
@[simp] theorem State.softReset_vcnt : (s.softReset).vcnt = 0 := rfl
@[simp] theorem State.softReset_mem : (s.softReset).mem = s.mem := rfl
@[simp] theorem State.softReset_epoch : (s.softReset).epoch = s.epoch := rfl
@[simp] theorem State.softReset_queue : (s.softReset).queue = s.queue := rfl
@[simp] theorem State.softReset_resp : (s.softReset).resp = s.resp := rfl

@[simp] theorem State.powerOn_status : (s.powerOn).status = .zero := rfl
@[simp] theorem State.powerOn_eexp : (s.powerOn).eexp = 0 := rfl
@[simp] theorem State.powerOn_eact : (s.powerOn).eact = 0 := rfl
@[simp] theorem State.powerOn_addr : (s.powerOn).addr = 0 := rfl
@[simp] theorem State.powerOn_raddr : (s.powerOn).raddr = 0 := rfl
@[simp] theorem State.powerOn_cnt : (s.powerOn).cnt = 0 := rfl
@[simp] theorem State.powerOn_wval : (s.powerOn).wval = 0 := rfl
@[simp] theorem State.powerOn_val : (s.powerOn).val = 0 := rfl
@[simp] theorem State.powerOn_res : (s.powerOn).res = 0 := rfl
@[simp] theorem State.powerOn_crc : (s.powerOn).crc = 0xFFFF := rfl
@[simp] theorem State.powerOn_txlen : (s.powerOn).txlen = 0 := rfl
@[simp] theorem State.powerOn_rxlen : (s.powerOn).rxlen = 0 := rfl
@[simp] theorem State.powerOn_dlen : (s.powerOn).dlen = 0 := rfl
@[simp] theorem State.powerOn_vcnt : (s.powerOn).vcnt = 0 := rfl
@[simp] theorem State.powerOn_mem : (s.powerOn).mem = [] := rfl
@[simp] theorem State.powerOn_epoch : (s.powerOn).epoch = s.epoch + 1 := rfl
@[simp] theorem State.powerOn_queue : (s.powerOn).queue = s.queue := rfl
@[simp] theorem State.powerOn_resp : (s.powerOn).resp = .idle := rfl

@[simp] theorem State.accept_status : (s.accept).status = s.status := rfl
@[simp] theorem State.accept_eexp : (s.accept).eexp = s.eexp := rfl
@[simp] theorem State.accept_eact : (s.accept).eact = s.eact := rfl
@[simp] theorem State.accept_addr : (s.accept).addr = s.addr := rfl
@[simp] theorem State.accept_raddr : (s.accept).raddr = s.raddr := rfl
@[simp] theorem State.accept_cnt : (s.accept).cnt = s.cnt := rfl
@[simp] theorem State.accept_wval : (s.accept).wval = s.wval := rfl
@[simp] theorem State.accept_val : (s.accept).val = s.val := rfl
@[simp] theorem State.accept_res : (s.accept).res = s.res := rfl
@[simp] theorem State.accept_crc : (s.accept).crc = s.crc := rfl
@[simp] theorem State.accept_txlen : (s.accept).txlen = s.txlen := rfl
@[simp] theorem State.accept_rxlen : (s.accept).rxlen = s.rxlen := rfl
@[simp] theorem State.accept_dlen : (s.accept).dlen = s.dlen := rfl
@[simp] theorem State.accept_vcnt : (s.accept).vcnt = s.vcnt := rfl
@[simp] theorem State.accept_mem : (s.accept).mem = s.mem := rfl
@[simp] theorem State.accept_epoch : (s.accept).epoch = s.epoch := rfl
@[simp] theorem State.accept_queue : (s.accept).queue = s.queue := rfl
@[simp] theorem State.accept_resp : (s.accept).resp = .writeOk := rfl

@[simp] theorem Status.completed_err (st : Status) (x5 : Bool) : (st.completed x5).err = false := rfl
@[simp] theorem Status.completed_serr (st : Status) (x5 : Bool) : (st.completed x5).serr = st.serr := rfl
@[simp] theorem Status.completed_resf (st : Status) (x5 : Bool) : (st.completed x5).resf = st.resf := rfl
@[simp] theorem Status.completed_x5 (st : Status) (x5 : Bool) : (st.completed x5).x5 = x5 := rfl
@[simp] theorem Status.completed_ecode (st : Status) (x5 : Bool) : (st.completed x5).ecode = 0 := rfl
@[simp] theorem Status.completed_efield (st : Status) (x5 : Bool) : (st.completed x5).efield = 0 := rfl
@[simp] theorem Status.completed_sxc (st : Status) (x5 : Bool) : (st.completed x5).sxc = if x5 then 5 else 0 := rfl

@[simp] theorem Status.failed_err (st : Status) (f : Failure) : (st.failed f).err = true := rfl
@[simp] theorem Status.failed_serr (st : Status) (f : Failure) : (st.failed f).serr = true := rfl
@[simp] theorem Status.failed_resf (st : Status) (f : Failure) : (st.failed f).resf = st.resf := rfl
@[simp] theorem Status.failed_x5 (st : Status) (f : Failure) : (st.failed f).x5 = false := rfl
@[simp] theorem Status.failed_ecode (st : Status) (f : Failure) : (st.failed f).ecode = f.code.val := rfl
@[simp] theorem Status.failed_efield (st : Status) (f : Failure) : (st.failed f).efield = f.field.val := rfl
@[simp] theorem Status.failed_sxc (st : Status) (f : Failure) : (st.failed f).sxc = f.sxc := rfl

end Sys2Proof.Machine
end

