-- ==== Sys2Proof/Laws/Memory.lean ====
section
/-! SUPPORT. The laws of the buffers' memory: what a read returns after a write, that a write changes nothing else, and
that every memory operation keeps the canonical form. -/

namespace Sys2Proof.Machine

theorem Memory.lookup_append (m n : Memory) (a : Nat) :
    Memory.lookup (m ++ n) a = (m.lookup a).or (n.lookup a) := by
  induction m with
  | nil => simp [Memory.lookup]
  | cons c m ih =>
    by_cases h : c.1 = a <;> simp [Memory.lookup, h, ih]

theorem Memory.lookup_filter (p : Nat → Bool) (m : Memory) (a : Nat) :
    Memory.lookup (m.filter fun c => p c.1) a = if p a then m.lookup a else none := by
  induction m with
  | nil => simp [Memory.lookup]
  | cons c m ih =>
    by_cases h : c.1 = a
    · subst h
      by_cases hp : p c.1 <;> simp [Memory.lookup, hp, ih]
    · by_cases hp : p c.1 <;> simp [Memory.lookup, hp, h, ih]

theorem lookup_cells (base : Nat) (bs : List Byte) (a : Nat) :
    Memory.lookup (cells base bs) a = if base ≤ a then bs[a - base]? else none := by
  induction bs generalizing base with
  | nil => simp [cells, Memory.lookup]
  | cons b bs ih =>
    rcases Nat.lt_trichotomy base a with h | h | h
    · obtain ⟨k, rfl⟩ : ∃ k, a = base + 1 + k := ⟨a - (base + 1), by omega⟩
      have h1 : base + 1 + k - base = k + 1 := by omega
      have h2 : base + 1 + k - (base + 1) = k := by omega
      simp [cells, Memory.lookup, ih, h.ne, h.le, h1, h2]
    · simp [cells, Memory.lookup, h]
    · simp [cells, Memory.lookup, ih, h.ne', Nat.not_le.2 h, Nat.not_le.2 (Nat.lt_succ_of_lt h)]

/-- A written byte reads back where it was written, and every other offset keeps what it held. -/
theorem Memory.lookup_write (m : Memory) (base : Nat) (bs : List Byte) (a : Nat) :
    (m.write base bs).lookup a =
      if base ≤ a then (bs[a - base]?).or (m.lookup a) else m.lookup a := by
  unfold Memory.write
  rw [Memory.lookup_append, Memory.lookup_append, lookup_cells,
    Memory.lookup_filter (fun k => decide (k < base)),
    Memory.lookup_filter (fun k => decide (base + bs.length ≤ k))]
  by_cases h : base ≤ a
  · by_cases h2 : base + bs.length ≤ a
    · have h3 : bs[a - base]? = none := List.getElem?_eq_none (by omega)
      simp [h, h2, h3, Nat.not_lt.2 h]
    · have h3 : a - base < bs.length := by omega
      simp [h, h2, Nat.not_lt.2 h, List.getElem?_eq_getElem h3]
  · have h2 : ¬ base + bs.length ≤ a := by omega
    simp [h, h2, Nat.lt_of_not_le h]

/-- One byte of storage after a store. -/
@[simp] theorem State.byteAt_store (s : State) (base : Nat) (bs : List Byte) (a : Nat) :
    (s.store base bs).byteAt a =
      if base ≤ a then (bs[a - base]?).getD (s.byteAt a) else s.byteAt a := by
  simp only [State.byteAt, State.store_mem, State.store_epoch, Memory.lookup_write]
  by_cases h : base ≤ a
  · cases h2 : bs[a - base]? <;> simp [h]
  · simp [h]

/-- A byte outside a stored list reads as before. -/
theorem State.byteAt_store_of_outside (s : State) {base : Nat} {bs : List Byte} {a : Nat}
    (h : a < base ∨ base + bs.length ≤ a) : (s.store base bs).byteAt a = s.byteAt a := by
  rw [State.byteAt_store]
  rcases h with h | h
  · simp [Nat.not_le.2 h]
  · simp [List.getElem?_eq_none (show bs.length ≤ a - base by omega)]

/-- A byte of a stored list reads back. -/
theorem State.byteAt_store_of_inside (s : State) {base : Nat} {bs : List Byte} {k : Nat} (h : k < bs.length) :
    (s.store base bs).byteAt (base + k) = bs[k] := by
  simp [State.byteAt_store, List.getElem?_eq_getElem h]

/-- A byte of storage depends only on the memory and the power-on count. -/
theorem State.byteAt_congr {s t : State} (hm : t.mem = s.mem) (he : t.epoch = s.epoch) (a : Nat) :
    t.byteAt a = s.byteAt a := by
  simp [State.byteAt, hm, he]

@[simp] theorem State.length_bytesAt (s : State) (base n : Nat) : (s.bytesAt base n).length = n := by
  simp [State.bytesAt]

@[simp] theorem State.getElem_bytesAt (s : State) (base n k : Nat) (h : k < (s.bytesAt base n).length) :
    (s.bytesAt base n)[k] = s.byteAt (base + k) := by
  simp [State.bytesAt]

theorem State.getElem?_bytesAt (s : State) (base n k : Nat) :
    (s.bytesAt base n)[k]? = if k < n then some (s.byteAt (base + k)) else none := by
  by_cases h : k < n
  · simp [State.bytesAt, h]
  · simp [State.bytesAt, h]

@[simp] theorem State.length_data (s : State) : s.data.length = s.dlen.val := by simp [State.data]

@[simp] theorem State.length_varrList (s : State) (n : Nat) : (s.varrList n).length = n := by simp [State.varrList]

theorem State.bytesAt_succ (s : State) (base n : Nat) :
    s.bytesAt base (n + 1) = s.byteAt base :: s.bytesAt (base + 1) n := by
  simp [State.bytesAt, List.range_succ_eq_map, List.map_map, Function.comp_def, Nat.add_assoc, Nat.add_comm 1]

/-- Reading back the whole of a stored list. -/
theorem State.bytesAt_store (s : State) (base : Nat) (bs : List Byte) :
    (s.store base bs).bytesAt base bs.length = bs := by
  apply List.ext_getElem (by simp)
  intro k _ h
  simp [State.byteAt_store, List.getElem?_eq_getElem h]

/-- `rising` says the offsets are pairwise strictly rising. -/
theorem Memory.rising_iff (m : Memory) : Memory.rising m = true ↔ m.Pairwise (fun c c' => c.1 < c'.1) := by
  induction m with
  | nil => simp [Memory.rising]
  | cons c m ih =>
    cases m with
    | nil => simp [Memory.rising]
    | cons c' m =>
      simp only [Memory.rising, Bool.and_eq_true, decide_eq_true_eq, ih, List.pairwise_cons]
      constructor
      · rintro ⟨h, h'⟩
        refine ⟨?_, h'⟩
        rintro x (_ | ⟨_, hx⟩)
        · exact h
        · exact h.trans (h'.1 x hx)
      · rintro ⟨h, h'⟩
        exact ⟨h c' List.mem_cons_self, h'⟩

/-- The canonical form, as a proposition. -/
theorem Memory.wf_iff (m : Memory) :
    m.wf = true ↔ m.Pairwise (fun c c' => c.1 < c'.1) ∧ ∀ c ∈ m, isStorage c.1 = true := by
  simp [Memory.wf, Memory.rising_iff]

theorem mem_cells {base : Nat} {bs : List Byte} {c : Host.Cell} (h : c ∈ cells base bs) :
    base ≤ c.1 ∧ c.1 < base + bs.length := by
  induction bs generalizing base with
  | nil => simp [cells] at h
  | cons b bs ih =>
    rcases List.mem_cons.1 h with rfl | h
    · simp
    · have := ih h
      simp only [List.length_cons]
      omega

theorem pairwise_cells (base : Nat) (bs : List Byte) : (cells base bs).Pairwise (fun c c' => c.1 < c'.1) := by
  induction bs generalizing base with
  | nil => simp [cells]
  | cons b bs ih =>
    refine List.pairwise_cons.2 ⟨fun c hc => ?_, ih (base + 1)⟩
    have := (mem_cells hc).1
    simp only
    omega

/-- A write of storage keeps the canonical form. -/
theorem Memory.wf_write {m : Memory} {base : Nat} {bs : List Byte} (hm : m.wf = true)
    (hb : ∀ k, k < bs.length → isStorage (base + k) = true) : (m.write base bs).wf = true := by
  rw [Memory.wf_iff] at hm ⊢
  obtain ⟨hp, hs⟩ := hm
  refine ⟨?_, fun c hc => ?_⟩
  · unfold Memory.write
    rw [List.append_assoc, List.pairwise_append, List.pairwise_append]
    refine ⟨hp.filter _, ⟨pairwise_cells base bs, hp.filter _, fun c hc c' hc' => ?_⟩, fun c hc c' hc' => ?_⟩
    · have h1 := (mem_cells hc).2
      have h2 := (List.mem_filter.1 hc').2
      simp only [decide_eq_true_eq] at h2
      omega
    · have h1 := (List.mem_filter.1 hc).2
      simp only [decide_eq_true_eq] at h1
      rcases List.mem_append.1 hc' with h | h
      · have := (mem_cells h).1
        omega
      · have h2 := (List.mem_filter.1 h).2
        simp only [decide_eq_true_eq] at h2
        omega
  · unfold Memory.write at hc
    rcases List.mem_append.1 hc with h | h
    · rcases List.mem_append.1 h with h | h
      · exact hs c (List.mem_of_mem_filter h)
      · obtain ⟨h1, h2⟩ := mem_cells h
        obtain ⟨k, hk⟩ : ∃ k, c.1 = base + k := ⟨c.1 - base, by omega⟩
        rw [hk]
        exact hb k (by omega)
    · exact hs c (List.mem_of_mem_filter h)

/-- Every offset of the three byte buffers is storage. -/
theorem isStorage_of_buffer {a : Nat} (h1 : 0x100 ≤ a) (h2 : a < 0x400) : isStorage a = true := by
  simp [isStorage, h1, h2]

/-- Every offset of VARR is storage. -/
theorem isStorage_of_varr {a : Nat} (h1 : 0x2000 ≤ a) (h2 : a < 0x4000) : isStorage a = true := by
  simp [isStorage, h1, h2]

/-- Reset lists nothing. -/
theorem reset_mem_wf : State.reset.mem.wf = true := rfl

/-- Power-on lists nothing. -/
theorem powerOn_mem_wf (s : State) : s.powerOn.mem.wf = true := rfl

/-- `setD` keeps the canonical form. -/
theorem putData_mem_wf {s : State} (hs : s.mem.wf = true) {l : List Byte} (hl : l.length ≤ 256) :
    (s.putData l).mem.wf = true :=
  Memory.wf_write hs fun k hk => isStorage_of_buffer (by simp only [dbufBase]; omega) (by simp only [dbufBase]; omega)

/-- BUILD_REQ's store keeps the canonical form. -/
theorem putFrame_mem_wf {s : State} (hs : s.mem.wf = true) {l : List Byte} (hl : l.length ≤ 256) :
    (s.putFrame l).mem.wf = true :=
  Memory.wf_write hs fun k hk => isStorage_of_buffer (by simp only [txbBase]; omega) (by simp only [txbBase]; omega)

@[simp] theorem length_flatMap_le4 (l : List Word) : (l.flatMap le4).length = 4 * l.length := by
  induction l with
  | nil => simp
  | cons v l ih => simp [le4, ih]; omega

/-- The list decoders' store keeps the canonical form. -/
theorem putList_mem_wf {s : State} (hs : s.mem.wf = true) {l : List Word} (hl : l.length ≤ 2048) :
    (s.putList l).mem.wf = true :=
  Memory.wf_write hs fun k hk => isStorage_of_varr (by simp only [varrBase]; omega) (by
    simp only [length_flatMap_le4] at hk
    simp only [varrBase]
    omega)

end Sys2Proof.Machine
end

