-- ==== Sys2Proof/Laws/Ops.lean ====
section
/-! SUPPORT. What the shared operations can do, once each: how a command's ending becomes its next state, and when each
check passes. -/

namespace Sys2Proof.Machine

@[simp] theorem State.finish_complete (s t : State) (x5 : Bool) : s.finish (.complete t x5) = t.complete x5 := rfl

@[simp] theorem State.finish_fail (s : State) (f : Failure) : s.finish (.fail f) = s.fail f := rfl

/-- A command's next state is a completed one or the state before with the failure recorded. -/
theorem State.finish_cases (s : State) (e : Ending) :
    (∃ t x5, e = .complete t x5 ∧ s.finish e = t.complete x5) ∨ (∃ f, e = .fail f ∧ s.finish e = s.fail f) := by
  cases e with
  | complete t x5 => exact .inl ⟨t, x5, rfl, rfl⟩
  | fail f => exact .inr ⟨f, rfl, rfl⟩

/-- A command's outcome is the next state its ending gives, and no other. -/
theorem State.ends_eq_next {s t : State} {e : Ending} : s.ends e = .next t ↔ t = s.finish e := by
  constructor
  · intro h
    exact (Host.Outcome.next.inj h).symm
  · rintro rfl
    rfl

@[simp] theorem failIf_pos {c : Prop} [Decidable c] (h : c) (f : Failure) (rest : Ending) :
    failIf c f rest = .fail f := if_pos h

@[simp] theorem failIf_neg {c : Prop} [Decidable c] (h : ¬ c) (f : Failure) (rest : Ending) :
    failIf c f rest = rest := if_neg h

/-- A check ends a command in its failure or lets it go on. -/
theorem failIf_cases {c : Prop} [Decidable c] {f : Failure} {rest e : Ending} (h : failIf c f rest = e) :
    (c ∧ e = .fail f) ∨ (¬ c ∧ e = rest) := by
  by_cases hc : c
  · exact .inl ⟨hc, by rw [← h, failIf_pos hc]⟩
  · exact .inr ⟨hc, by rw [← h, failIf_neg hc]⟩

/-- `setD` of a list that fits goes on. -/
theorem setD_of_le {l : List Byte} (h : l.length ≤ 256) (s : State) (rest : State → Ending) :
    setD l s rest = rest (s.putData l) := failIf_neg (by simp only [Config.bufSize]; omega) _ _

/-- `fit` passes exactly the integers within its bounds. -/
theorem fit_of_mem {n : Int} {sg : Bool} {bits : Nat} (h1 : fitLo sg bits ≤ n) (h2 : n ≤ fitHi sg bits)
    (rest : Ending) : fit n sg bits rest = rest := by
  rw [fit, failIf_neg (by omega), failIf_neg (by omega)]

theorem fit_of_lt {n : Int} {sg : Bool} {bits : Nat} (h : n < fitLo sg bits) (rest : Ending) :
    fit n sg bits rest = .fail { code := .range, field := .value, exp := fitLo sg bits, act := n } := failIf_pos h _ _

theorem fit_of_gt {n : Int} {sg : Bool} {bits : Nat} (h1 : fitLo sg bits ≤ n) (h2 : fitHi sg bits < n)
    (rest : Ending) :
    fit n sg bits rest = .fail { code := .range, field := .value, exp := fitHi sg bits, act := n } := by
  rw [fit, failIf_neg (by omega), failIf_pos h2]

@[simp] theorem fitLo_unsigned (n : Nat) : fitLo false n = 0 := rfl

@[simp] theorem fitLo_signed16 : fitLo true 16 = -32768 := rfl

@[simp] theorem fitLo_signed32 : fitLo true 32 = -2147483648 := rfl

@[simp] theorem fitHi_unsigned16 : fitHi false 16 = 65535 := rfl

@[simp] theorem fitHi_unsigned32 : fitHi false 32 = 4294967295 := rfl

@[simp] theorem fitHi_signed16 : fitHi true 16 = 32767 := rfl

@[simp] theorem fitHi_signed32 : fitHi true 32 = 2147483647 := rfl

theorem needFc_of_true {b : Bool} (h : b = true) (fc : Nat) (rest : Ending) : needFc b fc rest = rest :=
  failIf_neg (by simp [h]) _ _

theorem needFc_of_false {b : Bool} (h : b = false) (fc : Nat) (rest : Ending) :
    needFc b fc rest = .fail { code := .unsupportedFunction, field := .fc, exp := 0, act := fc } := failIf_pos h _ _

theorem needDecimals_of_le {d : Nat} (h : d ≤ 10) (rest : Ending) : needDecimals d rest = rest :=
  failIf_neg (by simp only [Config.maxDecimals]; omega) _ _

theorem needDecimals_of_gt {d : Nat} (h : 10 < d) (rest : Ending) :
    needDecimals d rest = .fail { code := .validation, field := .decimals, exp := 10, act := d } := failIf_pos h _ _

theorem needLength_of_eq {n : Nat} {s : State} (h : s.dlen.val = n) (rest : Ending) : needLength n s rest = rest :=
  failIf_neg (by simp [h]) _ _

theorem needLength_of_ne {n : Nat} {s : State} (h : s.dlen.val ≠ n) (rest : Ending) :
    needLength n s rest = .fail { code := .format, field := .length, exp := n, act := s.dlen.val } := failIf_pos h _ _

theorem needCount_of_mem {n : Nat} {s : State} (h1 : 1 ≤ s.cnt.toNat) (h2 : s.cnt.toNat ≤ n) (rest : Ending) :
    needCount n s rest = rest := by
  rw [needCount, failIf_neg (by simp only [Config.minCount]; omega), failIf_neg (by omega)]

/-- No entry is reported exactly when every entry is within the bound. -/
theorem firstAbove_eq_none {bound i : Nat} {l : List Word} :
    firstAbove bound i l = none ↔ ∀ v ∈ l, v.toNat ≤ bound := by
  induction l generalizing i with
  | nil => simp [firstAbove]
  | cons v l ih =>
    by_cases h : bound < v.toNat
    · simp only [firstAbove, h, if_true, List.mem_cons, forall_eq_or_imp]
      constructor
      · intro h'
        exact absurd h' (by simp)
      · rintro ⟨h', -⟩
        omega
    · simp [firstAbove, h, ih, Nat.not_lt.1 h]

/-- The entry reported is the first above the bound, with its index. -/
theorem firstAbove_eq_some {bound i k : Nat} {v : Word} {l : List Word} (h : firstAbove bound i l = some (k, v)) :
    ∃ j, k = i + j ∧ l[j]? = some v ∧ bound < v.toNat ∧ ∀ m, m < j → ∀ u, l[m]? = some u → u.toNat ≤ bound := by
  induction l generalizing i with
  | nil => simp [firstAbove] at h
  | cons w l ih =>
    by_cases hw : bound < w.toNat
    · simp only [firstAbove, hw, if_true, Option.some.injEq, Prod.mk.injEq] at h
      obtain ⟨rfl, rfl⟩ := h
      exact ⟨0, by simp, by simp, hw, by simp⟩
    · simp only [firstAbove, hw, if_false] at h
      obtain ⟨j, rfl, h1, h2, h3⟩ := ih h
      refine ⟨j + 1, by omega, by simpa using h1, h2, fun m hm u hu => ?_⟩
      cases m with
      | zero =>
        simp only [List.getElem?_cons_zero, Option.some.injEq] at hu
        subst hu
        omega
      | succ m => exact h3 m (by omega) u (by simpa using hu)

/-- The offset of a host address inside the window (R5). -/
theorem offsetOf_base_add (k : Nat) : offsetOf (Config.crcmbBase + k) = some k := by
  simp [offsetOf]

/-- `CRCMB_BASE` is a multiple of 0x4000 (R5). -/
theorem crcmbBase_aligned : Config.crcmbBase % 0x4000 = 0 := by
  simp [Config.crcmbBase]

end Sys2Proof.Machine
end

