-- ==== Sys2Proof/Laws/Bus.lean ====
section
/-! SUPPORT. What a step does with each host event, and where each window of the address map lies (20_memory.md R60). -/

namespace Sys2Proof.Machine

/-- With no event pending the machine waits (log 1). -/
theorem step_of_nil {s : State} (h : s.queue = []) : step s = .next s := by
  simp [step, h]

/-- With one pending, a step is that event on the state whose queue holds the rest. -/
theorem step_of_cons {s : State} {e : HostEvent} {rest : List HostEvent} (h : s.queue = e :: rest) :
    step s = State.perform { s with queue := rest } e := by
  simp [step, h]

/-- A 4-byte write at CMD's offset is the command (R22). -/
theorem hostWrite_cmd (s : State) (w : Word) : s.hostWrite 0x004 4 w = s.command w := rfl

/-- `withFetchWord` of a 32-bit word puts its CMD write first. -/
theorem withFetchWord_eq (s : State) (w : Word) : s.withFetchWord 32 w.toNat = s.issue w := by
  simp [State.withFetchWord, Nat.mod_eq_of_lt w.isLt]

theorem region_txb {off : Nat} (h1 : 0x100 ≤ off) (h2 : off < 0x200) : region off = .txb := by
  simp [region, show ¬ off < 0x48 by omega, show ¬ off < 0x100 by omega, h2]

theorem region_rxb {off : Nat} (h1 : 0x200 ≤ off) (h2 : off < 0x300) : region off = .rxb := by
  simp [region, show ¬ off < 0x48 by omega, show ¬ off < 0x100 by omega, show ¬ off < 0x200 by omega, h2]

theorem region_dbuf {off : Nat} (h1 : 0x300 ≤ off) (h2 : off < 0x400) : region off = .dbuf := by
  simp [region, show ¬ off < 0x48 by omega, show ¬ off < 0x100 by omega, show ¬ off < 0x200 by omega,
    show ¬ off < 0x300 by omega, h2]

theorem region_crctab {off : Nat} (h1 : 0x400 ≤ off) (h2 : off < 0x800) : region off = .crctab := by
  simp [region, show ¬ off < 0x48 by omega, show ¬ off < 0x100 by omega, show ¬ off < 0x200 by omega,
    show ¬ off < 0x300 by omega, show ¬ off < 0x400 by omega, h2]

theorem region_varr {off : Nat} (h1 : 0x2000 ≤ off) (h2 : off < 0x4000) : region off = .varr := by
  simp [region, show ¬ off < 0x48 by omega, show ¬ off < 0x100 by omega, show ¬ off < 0x200 by omega,
    show ¬ off < 0x300 by omega, show ¬ off < 0x400 by omega, show ¬ off < 0x800 by omega,
    show ¬ off < 0x2000 by omega, h2]

/-- Outside every window an access meets nothing (R61). -/
theorem region_reserved {off : Nat}
    (h : (0x48 ≤ off ∧ off < 0x100) ∨ (0x800 ≤ off ∧ off < 0x2000) ∨ 0x4000 ≤ off) : region off = .reserved := by
  rcases h with h | h | h
  · simp [region, show ¬ off < 0x48 by omega, show off < 0x100 by omega]
  · simp [region, show ¬ off < 0x48 by omega, show ¬ off < 0x100 by omega, show ¬ off < 0x200 by omega,
      show ¬ off < 0x300 by omega, show ¬ off < 0x400 by omega, show ¬ off < 0x800 by omega, h.2]
  · simp [region, show ¬ off < 0x48 by omega, show ¬ off < 0x100 by omega, show ¬ off < 0x200 by omega,
      show ¬ off < 0x300 by omega, show ¬ off < 0x400 by omega, show ¬ off < 0x800 by omega,
      show ¬ off < 0x2000 by omega, show ¬ off < 0x4000 by omega]

/-- A register stands at its own aligned offset (R60, R62). -/
theorem region_reg {k : Nat} {r : Reg} (h : regMap[k]? = some r) : region (4 * k) = .reg r := by
  have hk : k < 18 := by
    by_contra hk
    rw [List.getElem?_eq_none (show regMap.length ≤ k by simp only [regMap, List.length_cons, List.length_nil]; omega)] at h
    simp at h
  have h2 : 4 * k / 4 = k := by omega
  simp [region, show 4 * k < 0x48 by omega, h2, h]

/-- No register stands at an offset that is not 4-byte aligned (R62). -/
theorem region_misaligned {off : Nat} (h1 : off < 0x48) (h2 : off % 4 ≠ 0) : region off = .reserved := by
  simp [region, h1, h2]

end Sys2Proof.Machine
end

