-- ==== Sys2Proof/Laws/Bytes.lean ====
section
/-! SUPPORT. Laws of the byte-order functions: a value's bytes and back (00_scope.md R7, 20_memory.md R63), the word swap
and the byte orders as involutions (41_numeric_codec.md R124, R125), and a VARR entry after a store. -/

namespace Sys2Proof.Machine

theorem byteOf_toNat {n : Nat} (v : BitVec n) (k : Nat) : (byteOf v k).toNat = v.toNat / 2 ^ (8 * k) % 256 := by
  simp [byteOf, BitVec.extractLsb'_toNat, Nat.shiftRight_eq_div_pow]

@[simp] theorem length_be2 (v : Half) : (be2 v).length = 2 := rfl

@[simp] theorem length_be4 (v : Word) : (be4 v).length = 4 := rfl

@[simp] theorem length_be8 (v : DWord) : (be8 v).length = 8 := rfl

/-- `unbe` undoes `be_2`. -/
@[simp] theorem unbe_be2 (v : Half) : unbe (be2 v) = v.toNat := by
  have := v.isLt
  simp only [be2, unbe, List.foldl, byteOf_toNat]
  omega

/-- `unbe` undoes `be_4`. -/
@[simp] theorem unbe_be4 (v : Word) : unbe (be4 v) = v.toNat := by
  have := v.isLt
  simp only [be4, unbe, List.foldl, byteOf_toNat]
  omega

/-- `unbe` undoes `be_8`. -/
@[simp] theorem unbe_be8 (v : DWord) : unbe (be8 v) = v.toNat := by
  have := v.isLt
  simp only [be8, unbe, List.foldl, byteOf_toNat]
  omega

/-- The four lanes of a bus word give the word back. -/
@[simp] theorem ofLe4_byteOf (v : Word) : ofLe4 (byteOf v 0) (byteOf v 1) (byteOf v 2) (byteOf v 3) = v := by
  ext i hi
  simp only [ofLe4, byteOf, ← BitVec.getLsbD_eq_getElem]
  rcases Nat.lt_or_ge i 8 with h | h
  · simp [hi, h, show i < 16 by omega, show i < 24 by omega]
  · rcases Nat.lt_or_ge i 16 with h' | h'
    · simp [hi, Nat.not_lt.2 h, h', show i - 8 < 8 by omega, show i < 24 by omega, show 8 + (i - 8) = i by omega]
    · rcases Nat.lt_or_ge i 24 with h'' | h''
      · simp [hi, Nat.not_lt.2 h, Nat.not_lt.2 h', h'', show ¬ i - 8 < 8 by omega, show i - 16 < 8 by omega,
          show 16 + (i - 16) = i by omega]
      · simp [hi, Nat.not_lt.2 h, Nat.not_lt.2 h', Nat.not_lt.2 h'', show ¬ i - 8 < 8 by omega,
          show ¬ i - 16 < 8 by omega, show i - 24 < 8 by omega, show 24 + (i - 24) = i by omega]

@[simp] theorem length_swapHalves (l : List Byte) : (swapHalves l).length = l.length := by
  simp [swapHalves]
  omega

@[simp] theorem length_order (bo : ByteOrder) (l : List Byte) : (order bo l).length = l.length := by
  cases bo <;> simp [order, isLittle, isSwapped]

/-- The word swap of an even-length list is an involution (R124). -/
theorem swapHalves_swapHalves {l : List Byte} (h : l.length % 2 = 0) : swapHalves (swapHalves l) = l := by
  have h1 : (l.drop (l.length / 2)).length = l.length / 2 := by
    simp only [List.length_drop]
    omega
  have h2 : (swapHalves l).length / 2 = (l.drop (l.length / 2)).length := by rw [length_swapHalves, h1]
  conv_lhs => rw [swapHalves, h2]
  unfold swapHalves
  rw [List.drop_left, List.take_left, List.take_append_drop]

/-- Reversing commutes with the word swap on even-length lists (R125). -/
theorem reverse_swapHalves {l : List Byte} (h : l.length % 2 = 0) : (swapHalves l).reverse = swapHalves l.reverse := by
  have h1 : l.length - l.length / 2 = l.length / 2 := by omega
  simp [swapHalves, List.reverse_append, List.take_reverse, List.drop_reverse, h1]

/-- `order` is its own inverse on even-length lists (R125). -/
theorem order_order {l : List Byte} (h : l.length % 2 = 0) (bo : ByteOrder) : order bo (order bo l) = l := by
  cases bo
  · rfl
  · simp [order, isLittle, isSwapped]
  · simpa [order, isLittle, isSwapped] using swapHalves_swapHalves h
  · simp only [order, isLittle, isSwapped, if_true]
    rw [reverse_swapHalves (by simpa using h), List.reverse_reverse]
    exact swapHalves_swapHalves h

theorem getElem?_flatMap_le4 (l : List Word) (k j : Nat) (hj : j < 4) :
    (l.flatMap le4)[4 * k + j]? = (l[k]?).map fun v => byteOf v j := by
  induction l generalizing k with
  | nil => simp
  | cons v l ih =>
    cases k with
    | zero =>
      rcases j with _ | _ | _ | _ | j <;> first | rfl | omega
    | succ k =>
      rw [List.flatMap_cons, List.getElem?_append_right (by simp [le4]; omega)]
      rw [show 4 * (k + 1) + j - (le4 v).length = 4 * k + j by simp [le4]; omega, ih]
      rfl

/-- Every VARR entry after a list is stored (R31): the list's own, and the rest as before. -/
@[simp] theorem State.varr_putList (s : State) (l : List Word) (k : Nat) :
    (s.putList l).varr k = (l[k]?).getD (s.varr k) := by
  have hb : ∀ j, j < 4 → (s.putList l).byteAt (varrBase + 4 * k + j) =
      ((l[k]?).map fun v => byteOf v j).getD (s.byteAt (varrBase + 4 * k + j)) := by
    intro j hj
    have h : (s.putList l).byteAt (varrBase + 4 * k + j) =
        (s.store varrBase (l.flatMap le4)).byteAt (varrBase + 4 * k + j) := State.byteAt_congr rfl rfl _
    rw [h, State.byteAt_store, if_pos (by omega),
      show varrBase + 4 * k + j - varrBase = 4 * k + j by omega, getElem?_flatMap_le4 _ _ _ hj]
  simp only [State.varr, State.wordAt]
  have h0 := hb 0 (by omega)
  rw [Nat.add_zero] at h0
  rw [h0, hb 1 (by omega), hb 2 (by omega), hb 3 (by omega)]
  cases l[k]? with
  | none => rfl
  | some v => simp

/-- `2^1074`, the number of least subnormals in one (R11). -/
theorem binary64_unit : binary64.unit = 2 ^ 1074 := by
  rw [show (1074 : Nat) = 256 + 256 + 256 + 256 + 50 from rfl]
  simp only [binary64, Nat.pow_add]

end Sys2Proof.Machine
end

