-- ==== Sys2Proof/Laws/PerInstr.lean ====
section
/-! SUPPORT. Statements made per instruction. FixedBits: the word the encoder gives a command has the bits its row of the
opcode map fixes (30_encoding.md R81, R88), whatever its fields hold. -/

namespace Sys2Proof.Laws

/-- The masked word is the opcode: the acceptance test of R87. -/
def FixedBits.Statement (i : Instr) : Prop := encode i &&& i.format.mask = i.opcode.setWidth 32

theorem packWord_format_N (op : Byte) : packWord op .zero &&& Format.N.mask = op.setWidth 32 := by
  revert op
  decide

theorem fixed_R (op : Byte) (h : op = 0x20 ∨ op = 0x21 ∨ op = 0x22) (sg : Bool) (d : BitVec 4) :
    packWord op { Fields.zero with sg := sg, d := d } &&& Format.R.mask = op.setWidth 32 := by
  rcases h with rfl | rfl | rfl <;> (revert sg d; decide)

theorem fixed_L (op : Byte) (h : op = 0x23 ∨ op = 0x24) (sg : Bool) (bo : ByteOrder) :
    packWord op { Fields.zero with sg := sg, bo := bo } &&& Format.L.mask = op.setWidth 32 := by
  rcases h with rfl | rfl <;> cases sg <;> cases bo <;> rfl

theorem fixed_F (op : Byte) (h : op = 0x25 ∨ op = 0x26) (w : FloatWidth) (bo : ByteOrder) :
    packWord op { Fields.zero with w := w, bo := bo } &&& Format.F.mask = op.setWidth 32 := by
  rcases h with rfl | rfl <;> cases w <;> cases bo <;> rfl

/-- Formats B and P fix the same bits (R81). -/
theorem fixed_imm (op : Byte) (imm : Byte) :
    packWord op { Fields.zero with imm := imm } &&& 0xFF00FFFF = op.setWidth 32 := by
  have h : (packWord op { Fields.zero with imm := imm }) = op.setWidth 32 ||| imm.setWidth 32 <<< 16 := by
    simp [packWord, Fields.zero, ByteOrder.code, FloatWidth.bit]
  rw [h]
  ext i hi
  simp only [BitVec.getElem_and, BitVec.getElem_or, BitVec.getElem_setWidth, BitVec.getElem_shiftLeft]
  rcases Nat.lt_or_ge i 8 with h8 | h8
  · have : (0xFF00FFFF#32)[i] = true := by
      revert i
      decide
    simp [this]
    omega
  · have h1 : op.getLsbD i = false := BitVec.getLsbD_of_ge _ _ h8
    simp only [h1, Bool.false_or]
    rcases Nat.lt_or_ge i 16 with h16 | h16
    · simp [h16]
    · rcases Nat.lt_or_ge i 24 with h24 | h24
      · have h0 : ∀ j, (hj : j < 32) → 16 ≤ j → j < 24 → (0xFF00FFFF#32)[j] = false := by decide
        simp [h0 i hi h16 h24]
      · have h2 : imm.getLsbD (i - 16) = false := BitVec.getLsbD_of_ge _ _ (by omega)
        simp [h2]

theorem FixedBits.nop : FixedBits.Statement .nop := rfl

theorem FixedBits.crcInit : FixedBits.Statement .crcInit := rfl

theorem FixedBits.crcByte (b : Byte) : FixedBits.Statement (.crcByte b) := fixed_imm _ b

theorem FixedBits.crcData : FixedBits.Statement .crcData := rfl

theorem FixedBits.encRegI (sg : Bool) (d : Nat) : FixedBits.Statement (.encRegI sg d) :=
  fixed_R _ (by simp [Instr.opcode]) sg _

theorem FixedBits.encRegF (sg : Bool) (d : Nat) : FixedBits.Statement (.encRegF sg d) :=
  fixed_R _ (by simp [Instr.opcode]) sg _

theorem FixedBits.decReg (sg : Bool) (d : Nat) : FixedBits.Statement (.decReg sg d) :=
  fixed_R _ (by simp [Instr.opcode]) sg _

theorem FixedBits.encLong (sg : Bool) (bo : ByteOrder) : FixedBits.Statement (.encLong sg bo) :=
  fixed_L _ (by simp [Instr.opcode]) sg bo

theorem FixedBits.decLong (sg : Bool) (bo : ByteOrder) : FixedBits.Statement (.decLong sg bo) :=
  fixed_L _ (by simp [Instr.opcode]) sg bo

theorem FixedBits.encFloat (w : FloatWidth) (bo : ByteOrder) : FixedBits.Statement (.encFloat w bo) :=
  fixed_F _ (by simp [Instr.opcode]) w bo

theorem FixedBits.decFloat (w : FloatWidth) (bo : ByteOrder) : FixedBits.Statement (.decFloat w bo) :=
  fixed_F _ (by simp [Instr.opcode]) w bo

theorem FixedBits.encRegList : FixedBits.Statement .encRegList := rfl

theorem FixedBits.decRegList : FixedBits.Statement .decRegList := rfl

theorem FixedBits.encBits : FixedBits.Statement .encBits := rfl

theorem FixedBits.decBits : FixedBits.Statement .decBits := rfl

theorem FixedBits.encCoil : FixedBits.Statement .encCoil := rfl

theorem FixedBits.wordSwap : FixedBits.Statement .wordSwap := rfl

theorem FixedBits.payloadRead (fc : Nat) : FixedBits.Statement (.payloadRead fc) := fixed_imm _ _

theorem FixedBits.payloadWrite (fc : Nat) : FixedBits.Statement (.payloadWrite fc) := fixed_imm _ _

theorem FixedBits.buildReq (fc : Nat) : FixedBits.Statement (.buildReq fc) := fixed_imm _ _

theorem FixedBits.parseRsp (fc : Nat) : FixedBits.Statement (.parseRsp fc) := fixed_imm _ _

theorem FixedBits.validateRsp (fc : Nat) : FixedBits.Statement (.validateRsp fc) := fixed_imm _ _

theorem FixedBits.predict (fc : Nat) : FixedBits.Statement (.predict fc) := fixed_imm _ _

theorem FixedBits.clr : FixedBits.Statement .clr := rfl

theorem FixedBits.srst : FixedBits.Statement .srst := rfl

end Sys2Proof.Laws
end

