-- ==== Sys2Proof/Tests/Slice0.lean ====
section
/-! SUPPORT. Tests: ill-formed terms refused, command words written out from 30_encoding.md R81 and R88, one or two vectors
of 95_test_vectors.md per command, host accesses, and for each statement with hypotheses a state that meets them. Expected
values come from the spec's tables and vectors, named in each docstring. -/

namespace Sys2Proof.Tests

open Sys2Proof.Machine Sys2Proof.Safety

/-! ## Helpers -/

/-- Reset with these bytes in DBUF and their number in DLEN: what `ldd` leaves. -/
def dataState (l : List Byte) : State := { State.reset with mem := cells 0x300 l, dlen := Fin.ofNat 257 l.length }

/-- Reset with these entries in VARR and their number in VCNT: what `ldv` leaves. -/
def listState (l : List Word) : State :=
  { State.reset with mem := cells 0x2000 (l.flatMap le4), vcnt := Fin.ofNat 2049 l.length }

/-- Reset with a slave address in ADDR, and these bytes in RXB and their number in RXLEN: what `ldrx` leaves. -/
def frameState (addr : Byte) (l : List Byte) : State :=
  { State.reset with addr := addr, mem := cells 0x200 l, rxlen := Fin.ofNat 257 l.length }

/-- Reset with a value in VAL. -/
def valState (v : DWord) : State := { State.reset with val := v }

/-- Something about the next state of an outcome. -/
def seen {α : Type} (o : Host.Outcome State Fault Refusal) (f : State → α) : Option α :=
  match o with
  | .next t => some (f t)
  | .fault _ => none
  | .refused _ => none

/-- STATUS, EEXP and EACT of a state. -/
def diag (t : State) : Nat × Nat × Nat := (t.status.word.toNat, t.eexp.toNat, t.eact.toNat)

/-- Where a decoder gives a command, the command. -/
def decoded (w : Word) : Option Instr :=
  match decode w with
  | .ok i => some i
  | .error _ => none

/-! ## Well-formedness and decoding -/

/-- D has 4 bits (R80). -/
theorem test_wf_decimals : (Instr.encRegI true 16).wf = false ∧ (Instr.encRegF false 16).wf = false ∧
    (Instr.decReg true 16).wf = false ∧ (Instr.decReg true 15).wf = true := by decide

/-- FC has 8 bits (R80). -/
theorem test_wf_function_code : (Instr.payloadRead 256).wf = false ∧ (Instr.payloadWrite 256).wf = false ∧
    (Instr.buildReq 256).wf = false ∧ (Instr.parseRsp 256).wf = false ∧ (Instr.validateRsp 256).wf = false ∧
    (Instr.predict 256).wf = false ∧ (Instr.predict 255).wf = true := by decide

/-- R81, R88: words of the control and CRC commands, bit by bit. -/
theorem test_decode_crc_and_control :
    decoded 0b00000000000000000000000000000000 = some .nop ∧
    decoded 0b00000000000000000000000000010000 = some .crcInit ∧
    decoded 0b00000000101010110000000000010001 = some (.crcByte 0xAB) ∧
    decoded 0b00000000000000000000000000010010 = some .crcData ∧
    decoded 0b00000000000000000000000011110000 = some .clr ∧
    decoded 0b00000000000000000000000011111111 = some .srst := by decide

/-- R81, R88: words of the numeric codec commands, bit by bit. -/
theorem test_decode_numeric :
    decoded 0b00000000000000000010010000100000 = some (.encRegI true 2) ∧
    decoded 0b00000000000000001111000000100001 = some (.encRegF false 15) ∧
    decoded 0b00000000000000000001010000100010 = some (.decReg true 1) ∧
    decoded 0b00000000000000000000011000100011 = some (.encLong true .bigSwapped) ∧
    decoded 0b00000000000000000000000100100100 = some (.decLong false .little) ∧
    decoded 0b00000000000000000000101100100101 = some (.encFloat .double .littleSwapped) ∧
    decoded 0b00000000000000000000001000100110 = some (.decFloat .single .bigSwapped) ∧
    decoded 0b00000000000000000000000000100111 = some .encRegList ∧
    decoded 0b00000000000000000000000000101000 = some .decRegList ∧
    decoded 0b00000000000000000000000000101001 = some .encBits ∧
    decoded 0b00000000000000000000000000101010 = some .decBits ∧
    decoded 0b00000000000000000000000000101011 = some .encCoil ∧
    decoded 0b00000000000000000000000000101100 = some .wordSwap := by decide

/-- R81, R88: words of the frame codec commands and the predictor, bit by bit. -/
theorem test_decode_frame :
    decoded 0b00000000000000110000000000110000 = some (.payloadRead 3) ∧
    decoded 0b00000000000100000000000000110001 = some (.payloadWrite 16) ∧
    decoded 0b00000000000001010000000000110010 = some (.buildReq 5) ∧
    decoded 0b00000000000000010000000000110011 = some (.parseRsp 1) ∧
    decoded 0b00000000111111110000000000110100 = some (.validateRsp 255) ∧
    decoded 0b00000000000011110000000001000000 = some (.predict 15) := by decide

/-- V-ENC-1 to V-ENC-7: illegal words. -/
theorem test_illegal_words : [0x00000001, 0x00000013, 0x000000FE, 0x00000100, 0x01000000, 0x00000111, 0x00010010].map
    decoded = List.replicate 7 none := by decide

/-- V-ENC-8 to V-ENC-14: illegal words. -/
theorem test_illegal_words_fields : [0x00000122, 0x0000F023, 0x00001025, 0x00000525, 0x00003127, 0x00000130,
    0x01030033].map decoded = List.replicate 7 none := by decide

/-- The table's word, and one longer than a command. -/
theorem test_table_word : decodeTableWord 32 0x00030033 = some (.parseRsp 3) ∧ decodeTableWord 40 0 = none := by decide

/-- R92: the examples, another order of the fields, and texts that are no command. -/
theorem test_assembler :
    assemble "DEC_LONG bo=3, s=1".toList = some (.decLong true .littleSwapped) ∧
    assemble "PREDICT fc=0x10".toList = some (.predict 16) ∧ assemble "ENC_LONG".toList = some (.encLong false .big) ∧
    assemble "ENC_LONG d=2".toList = none ∧ assemble "JUMP".toList = none := by decide +kernel

/-! ## Commands: one or two vectors each -/

/-- V-CTL-1. -/
theorem test_nop : seen (exec .nop { State.reset with
      status := { State.reset.status with err := true, serr := true, ecode := 9, efield := 0x44, sxc := 2 }, eact := 2 })
    diag = some (0x00000002, 0, 0) := by decide

/-- V-CTL-4. -/
theorem test_clr : seen (exec .clr { dataState [1, 2, 3] with vcnt := 2 })
    (fun t => (t.dlen.val, t.vcnt.val, t.bytesAt 0x300 3)) = some (0, 0, [1, 2, 3]) := by decide

/-- V-CTL-5. -/
theorem test_srst : seen (exec .srst { dataState [1, 2, 3] with addr := 5, crc := 7, eact := 1 })
    (fun t => (t.addr, t.crc, t.dlen.val, t.eact, t.bytesAt 0x300 3)) = some (0, 0xFFFF, 0, 0, [1, 2, 3]) := by decide

/-- V-CRC-8. -/
theorem test_crc_init : seen (exec .crcInit { State.reset with crc := 0x1234 }) State.crc = some 0xFFFF := by decide

/-- V-CRC-7. -/
theorem test_crc_byte : seen (exec (.crcByte 0xAB) { State.reset with crc := 0x1234 }) State.crc = some 0x6852 := by decide

/-- V-CRC-1, and R105 for CRC. -/
theorem test_crc_data : seen (exec .crcData (dataState [0x01, 0x03, 0x00, 0x00, 0x00, 0x02]))
    (fun t => (t.res, t.crc)) = some (0x0BC4, 0x0BC4) := by decide

/-- V-CRC-2: the empty list. -/
theorem test_crc_data_empty : seen (exec .crcData (dataState [])) State.res = some 0xFFFF := by decide

/-- V-NUM-1. -/
theorem test_enc_reg_i : seen (exec (.encRegI true 2) (valState 0xFFFFFFFFFFFFFFFB)) State.data = some [0xFE, 0x0C] := by
  decide

/-- V-NUM-8: the signed lower bound and the value as 32-bit patterns. -/
theorem test_enc_reg_i_bound : seen (exec (.encRegI true 0) (valState 0xFFFFFFFFFFFF7FFF)) diag =
    some (0x00100303, 0xFFFF8000, 0xFFFF7FFF) := by decide

/-- V-NUM-13: 0.29 scaled by 100 is rounded below 29 and truncates to 28. -/
theorem test_enc_reg_f : seen (exec (.encRegF false 2) (valState 0x3FD28F5C28F5C28F)) State.data = some [0x00, 0x1C] := by
  decide +kernel

/-- R127, corner case: -0.5 truncates toward zero. -/
theorem test_enc_reg_f_toward_zero : seen (exec (.encRegF false 0) (valState 0xBFE0000000000000)) State.data =
    some [0x00, 0x00] := by decide +kernel

/-- R128, example: -500 divided by 10 is -50.0. -/
theorem test_dec_reg : seen (exec (.decReg true 1) (dataState [0xFE, 0x0C])) (fun t => (t.res, t.status.word)) =
    some (0xC049000000000000, 0x00000004) := by decide +kernel

/-- R128, corner case: no decimals, sign-extended. -/
theorem test_dec_reg_integer : seen (exec (.decReg true 0) (dataState [0xFE, 0x0C])) (fun t => (t.res, t.status.word)) =
    some (0xFFFFFFFFFFFFFE0C, 0) := by decide

/-- R129, example: the four byte orders of 0x12345678. -/
theorem test_enc_long : [ByteOrder.big, .little, .bigSwapped, .littleSwapped].map (fun bo =>
      seen (exec (.encLong false bo) (valState 0x12345678)) State.data) =
    [some [0x12, 0x34, 0x56, 0x78], some [0x78, 0x56, 0x34, 0x12], some [0x56, 0x78, 0x12, 0x34],
      some [0x34, 0x12, 0x78, 0x56]] := by decide

/-- R129, corner case: 2^32 unsigned. -/
theorem test_enc_long_bound : seen (exec (.encLong false .big) (valState 0x100000000)) diag =
    some (0x00100303, 0xFFFFFFFF, 0) := by decide

/-- R130, example. -/
theorem test_dec_long : seen (exec (.decLong true .littleSwapped) (dataState [0xFF, 0xFF, 0xFE, 0xFF])) State.res =
    some 0xFFFFFFFFFFFFFFFE := by decide

/-- R131, example: 11.22. -/
theorem test_enc_float : seen (exec (.encFloat .single .bigSwapped) (valState 0x402670A3D70A3D71)) State.data =
    some [0x85, 0x1F, 0x41, 0x33] := by decide +kernel

/-- E9: binary64, order 3. -/
theorem test_enc_float_double : seen (exec (.encFloat .double .littleSwapped) (valState 0x402670A3D70A3D71)) State.data =
    some [0xA3, 0x70, 0x26, 0x40, 0x71, 0x3D, 0x0A, 0xD7] := by decide

/-- R132, example. -/
theorem test_dec_float : seen (exec (.decFloat .single .bigSwapped) (dataState [0x85, 0x1F, 0x41, 0x33])) State.res =
    some 0x402670A3E0000000 := by decide +kernel

/-- R132, corner case: a NaN is made quiet. -/
theorem test_dec_float_nan : seen (exec (.decFloat .single .big) (dataState [0x7F, 0x80, 0x00, 0x01])) State.res =
    some 0x7FF8000020000000 := by decide +kernel

/-- R133, example. -/
theorem test_enc_reglist : seen (exec .encRegList { listState [0x1234, 0xABCD, 7] with cnt := 3 }) State.data =
    some [0x12, 0x34, 0xAB, 0xCD, 0x00, 0x07] := by decide

/-- R133: the first entry above 0xFFFF is reported. -/
theorem test_enc_reglist_entry : seen (exec .encRegList { listState [1, 0x10000, 0x20000] with cnt := 3 }) diag =
    some (0x00110303, 1, 0x10000) := by decide

/-- R134, example. -/
theorem test_dec_reglist : seen (exec .decRegList { dataState [0x12, 0x34, 0xFF, 0xFE] with cnt := 2 })
    (fun t => (t.varrList 2, t.vcnt.val)) = some ([0x1234, 0xFFFE], 2) := by decide

/-- R135, example. -/
theorem test_enc_bits : seen (exec .encBits (listState [1, 0, 1, 1, 0, 0, 0, 0, 1])) State.data = some [0x0D, 0x01] := by
  decide

/-- V-NUM-104: the padding bits are ignored. -/
theorem test_dec_bits : seen (exec .decBits { dataState [0x0D, 0xFF] with cnt := 9 })
    (fun t => (t.varrList 9, t.vcnt.val)) = some ([1, 0, 1, 1, 0, 0, 0, 0, 1], 9) := by decide

/-- V-NUM-107. -/
theorem test_enc_coil : seen (exec .encCoil (valState 1)) State.data = some [0xFF, 0x00] := by decide

/-- V-NUM-112. -/
theorem test_word_swap : seen (exec .wordSwap (dataState [1, 2, 3, 4, 5, 6])) State.data = some [4, 5, 6, 1, 2, 3] := by
  decide

/-- V-FRM-2. -/
theorem test_payload_read : seen (exec (.payloadRead 4) { State.reset with raddr := 0xFFFF, cnt := 125 }) State.data =
    some [0xFF, 0xFF, 0x00, 0x7D] := by decide

/-- V-FRM-10. -/
theorem test_payload_write_single : seen (exec (.payloadWrite 5) { dataState [0xFF, 0x00] with raddr := 0xAC })
    (fun t => (t.data, t.wval)) = some ([0x00, 0xAC, 0xFF, 0x00], 0xFF00) := by decide

/-- V-FRM-11. -/
theorem test_payload_write_bits : seen (exec (.payloadWrite 15) { dataState [0xCD, 0x01] with raddr := 0x13, cnt := 10 })
    State.data = some [0x00, 0x13, 0x00, 0x0A, 0x02, 0xCD, 0x01] := by decide

/-- V-FRM-19. -/
theorem test_build_req : seen (exec (.buildReq 3) { dataState [0x00, 0x00, 0x00, 0x02] with addr := 1 })
    (fun t => t.bytesAt 0x100 t.txlen.val) = some [0x01, 0x03, 0x00, 0x00, 0x00, 0x02, 0xC4, 0x0B] := by decide

/-- V-PRS-1. -/
theorem test_parse_rsp : seen (exec (.parseRsp 3)
      (frameState 1 [0x01, 0x03, 0x04, 0x00, 0x0A, 0x00, 0x14, 0xDA, 0x3E])) State.data =
    some [0x04, 0x00, 0x0A, 0x00, 0x14] := by decide

/-- V-PRS-14: code 5 passes through. -/
theorem test_parse_rsp_code5 : seen (exec (.parseRsp 1) (frameState 1 [0x01, 0x81, 0x05, 0x80, 0x53]))
    (fun t => (t.data, t.status.word)) = some ([0x05], 0x05000008) := by decide

/-- V-VAL-1. -/
theorem test_validate_rsp_read : seen (exec (.validateRsp 3) { dataState [0x04, 0x00, 0x0A, 0x00, 0x14] with cnt := 2 })
    State.data = some [0x00, 0x0A, 0x00, 0x14] := by decide

/-- V-VAL-10. -/
theorem test_validate_rsp_write : seen (exec (.validateRsp 16)
      { dataState [0x00, 0x01, 0x00, 0x02] with raddr := 1, cnt := 3 }) diag = some (0x00340B03, 3, 2) := by decide

/-- V-PRD-4. -/
theorem test_predict : seen (exec (.predict 1) (dataState [0x00, 0x13, 0x00, 0x25])) State.res = some 10 := by decide

/-- V-PRD-13. -/
theorem test_predict_unsupported : seen (exec (.predict 0x83) State.reset) diag = some (0x00500C03, 0, 0x83) := by decide

/-! ## Host accesses -/

/-- Reset with one host event pending. -/
def pending (e : HostEvent) : State := { State.reset with queue := [e] }

/-- What the host sees of one access from reset. -/
def answer (e : HostEvent) : Option Response := seen (step (pending e)) State.resp

/-- V-MEM-1, 3 to 6, 8 to 10. -/
theorem test_reads : answer (.read 0x000 4) = some (.readOk 0x4D420007) ∧ answer (.read 0x004 4) = some (.readOk 0) ∧
    answer (.read 0x600 4) = some (.readOk 0xA001) ∧ answer (.read 0x404 4) = some (.readOk 0xC0C1) ∧
    answer (.read 0x7FC 4) = some (.readOk 0x4040) ∧ answer (.read 0x048 4) = some (.readError 0) ∧
    answer (.read 0x800 4) = some (.readError 0) ∧ answer (.read 0x008 1) = some (.readError 0) := by decide

/-- V-MEM-2, 7, 11 to 17, 19. -/
theorem test_refused_writes : ∀ e ∈ ([.write 0x000 4 1, .write 0x400 4 0, .write 0x300 2 0, .write 0x100 1 0,
    .write 0x202 4 0, .write 0x014 4 0x100, .write 0x01C 4 0x10000, .write 0x008 4 1, .write 0x040 4 257,
    .write 0x044 4 2049, .write 0x4000 4 0] : List HostEvent), answer e = some .writeError := by decide

/-- V-MEM-20, 22: the bus is little-endian and a buffer write changes no length. -/
theorem test_buffer_write : seen (step (pending (.write 0x300 4 0x44332211)))
    (fun t => (t.byteAt 0x301, t.dlen.val, t.resp)) = some (0x22, 0, .writeOk) := by decide

/-- V-MEM-21. -/
theorem test_buffer_read : seen (step { dataState [0x11, 0x22, 0x33, 0x44] with queue := [.read 0x300 4] }) State.resp =
    some (.readOk 0x44332211) := by decide

/-- V-CTL-2: only SERR is cleared. -/
theorem test_status_write : seen (step { pending (.write 0x008 4 2) with
      status := { State.reset.status with err := true, serr := true, ecode := 9, efield := 0x44, sxc := 2 } })
    (fun t => t.status.word) = some 0x02440901 := by decide

/-- V-ENC-7 by a CMD write: an illegal word. -/
theorem test_illegal_command : seen (step (State.reset.withFetchWord 32 0x00010010)) diag =
    some (0x00000103, 0, 0x00010010) := by decide

/-- V-ENC-15 by a CMD write: a legal word that fails, and the write is accepted. -/
theorem test_cmd_write : seen (step (State.reset.withFetchWord 32 0x00000422)) (fun t => (diag t, t.resp, t.queue)) =
    some ((0x00200403, 2, 0), .writeOk, []) := by decide

/-- Program P3's stop: `chk` after a failure issues nothing more (R93). -/
theorem test_check : seen (step { State.reset with
      status := { State.reset.status with err := true }, queue := [.check, .write 4 4 0] }) State.queue = some [] := by
  decide

/-- R93: the accesses of `ldd`, and offsets of `wr` and `rd`. -/
theorem test_host_statements : programEvents [.wr .addr 1, .ldd [0xFB, 0x2E], .cmd "DEC_REG s=1, d=2".toList, .rd .resHi] =
    some [.write 0x014 4 1, .write 0x300 1 0xFB, .write 0x301 1 0x2E, .write 0x040 4 2, .write 0x004 4 0x2422,
      .read 0x030 4] := by decide

/-! ## Witnesses: for each statement with hypotheses, states that meet them, clause by clause -/

/-- A state with this queue. -/
def queued (q : List HostEvent) : State := { State.reset with queue := q }

/-- EveryStepKeepsTheInvariant: a state with bytes in DBUF whose next step is a command. -/
theorem witness_every_step :
    Safety.Inv ((dataState [0xFF, 0x00]).issue 0x10) ∧ ∃ t, step ((dataState [0xFF, 0x00]).issue 0x10) = .next t :=
  ⟨⟨by decide, by unfold DiagnosticsOk; decide⟩, _, rfl⟩

/-- EveryStepKeepsTheInvariant: a failing command, at the last byte of DBUF. -/
theorem witness_every_step_failing :
    Safety.Inv ({ State.reset with mem := cells 0x3FF [7] }.issue 0x22) ∧
      ∃ t, step ({ State.reset with mem := cells 0x3FF [7] }.issue 0x22) = .next t :=
  ⟨⟨by decide, by unfold DiagnosticsOk; decide⟩, _, rfl⟩

/-- PowerOnResetsRegistersAndForgetsBuffers. -/
theorem witness_power_on : (queued [.powerOnReset, .read 0 4]).queue = .powerOnReset :: [.read 0 4] := rfl

/-- DecodingUndoesEncoding and EncodingUndoesDecoding, at the ends of D and FC. -/
theorem witness_encoding : (Instr.encRegF true 15).wf = true ∧ (Instr.predict 255).wf = true ∧
    decode 0x0000F421 = .ok (.encRegF true 15) ∧ decode 0x00FF0040 = .ok (.predict 255) := by
  refine ⟨by decide, by decide, by rfl, by rfl⟩

/-- IllegalWordFailsWithTheWord: no command has the word 1, whose opcode is none of the map's. -/
theorem witness_illegal_word : (queued [.write 0x004 4 1]).queue = .write 0x004 4 1 :: [] ∧
    ∀ i : Instr, i.wf = true → encode i ≠ 1 := by
  refine ⟨rfl, fun i _ h => ?_⟩
  have key : ∀ j : Instr, Laws.FixedBits.Statement j → encode j = 1 → False := by
    intro j hj h1
    have h2 : (1 : Word) &&& j.format.mask = j.opcode.setWidth 32 := h1 ▸ hj
    cases j <;> simp only [Instr.format, Instr.opcode] at h2 <;> revert h2 <;> decide
  cases i with
  | nop => exact key _ Laws.FixedBits.nop h
  | crcInit => exact key _ Laws.FixedBits.crcInit h
  | crcByte b => exact key _ (Laws.FixedBits.crcByte b) h
  | crcData => exact key _ Laws.FixedBits.crcData h
  | encRegI sg d => exact key _ (Laws.FixedBits.encRegI sg d) h
  | encRegF sg d => exact key _ (Laws.FixedBits.encRegF sg d) h
  | decReg sg d => exact key _ (Laws.FixedBits.decReg sg d) h
  | encLong sg bo => exact key _ (Laws.FixedBits.encLong sg bo) h
  | decLong sg bo => exact key _ (Laws.FixedBits.decLong sg bo) h
  | encFloat w bo => exact key _ (Laws.FixedBits.encFloat w bo) h
  | decFloat w bo => exact key _ (Laws.FixedBits.decFloat w bo) h
  | encRegList => exact key _ Laws.FixedBits.encRegList h
  | decRegList => exact key _ Laws.FixedBits.decRegList h
  | encBits => exact key _ Laws.FixedBits.encBits h
  | decBits => exact key _ Laws.FixedBits.decBits h
  | encCoil => exact key _ Laws.FixedBits.encCoil h
  | wordSwap => exact key _ Laws.FixedBits.wordSwap h
  | payloadRead fc => exact key _ (Laws.FixedBits.payloadRead fc) h
  | payloadWrite fc => exact key _ (Laws.FixedBits.payloadWrite fc) h
  | buildReq fc => exact key _ (Laws.FixedBits.buildReq fc) h
  | parseRsp fc => exact key _ (Laws.FixedBits.parseRsp fc) h
  | validateRsp fc => exact key _ (Laws.FixedBits.validateRsp fc) h
  | predict fc => exact key _ (Laws.FixedBits.predict fc) h
  | clr => exact key _ Laws.FixedBits.clr h
  | srst => exact key _ Laws.FixedBits.srst h

/-- CmdWriteRunsTheDecodedCommand. -/
theorem witness_cmd_write : (queued [.write 0x004 4 0x00030033, .check]).queue = .write 0x004 4 0x00030033 :: [.check] ∧
    decode 0x00030033 = .ok (.parseRsp 3) := ⟨rfl, rfl⟩

/-- LaterAccessesCannotAffectAnEvent. -/
theorem witness_later_accesses : (queued [.write 0x004 4 0xFF, .powerOnReset]).queue =
    .write 0x004 4 0xFF :: [.powerOnReset] ∧ (.write 0x004 4 0xFF : HostEvent) ≠ .check := by decide

/-- FailingCommandChangesOnlyDiagnostics and EachCommandRaisesOnlyItsCodes: DEC_LONG with no data. -/
theorem witness_failing : ∃ t, exec (.decLong true .big) State.reset = .next t ∧ t.status.err = true := ⟨_, rfl, rfl⟩

/-- CompletingCommandClearsDiagnostics: a plain completion, the pass-through, and a command that changes RESF. -/
theorem witness_completing :
    (∃ t, exec .nop State.reset = .next t ∧ Instr.nop ≠ .srst ∧ t.status.err = false) ∧
    seen (exec (.parseRsp 1) (frameState 1 [0x01, 0x81, 0x05, 0x80, 0x53])) (fun t => (t.status.err, t.status.x5)) =
      some (false, true) ∧
    seen (exec (.decFloat .double .big) (dataState [0, 0, 0, 0, 0, 0, 0, 1]))
      (fun t => (t.status.err, t.status.resf)) = some (false, true) :=
  ⟨⟨_, rfl, by decide, rfl⟩, by decide, by decide⟩

/-- CommandsIgnoreEarlierOutcomes: states that differ in STATUS, EEXP and EACT. -/
theorem witness_same_but_diagnostics :
    SameButDiagnostics (valState 1) { valState 1 with status := failedStatus State.reset 9 0x44 2, eact := 2 } ∧
    ∃ t, exec .encCoil (valState 1) = .next t := ⟨rfl, _, rfl⟩

/-- CommandsReadOnlyContent: DBUF differs at DLEN, the first byte past its content, and agrees below it. -/
theorem witness_same_content :
    SameContent { dataState [1, 2] with mem := cells 0x300 [1, 2, 3] } { dataState [1, 2] with mem := cells 0x300 [1, 2, 4] } ∧
    ∃ t, exec .wordSwap { dataState [1, 2] with mem := cells 0x300 [1, 2, 3] } = .next t := by
  refine ⟨⟨rfl, ?_, ?_, ?_, ?_⟩, _, rfl⟩
  · decide
  · decide
  · decide
  · decide

/-- CommandsKeepHostRegisters: both ends of RXB. -/
theorem witness_keep_host_registers : (∃ t, exec .crcInit State.reset = .next t) ∧ Instr.crcInit ≠ .srst ∧
    0x200 ≤ 0x200 ∧ 0x200 < 0x300 ∧ 0x200 ≤ 0x2FF ∧ 0x2FF < 0x300 := ⟨⟨_, rfl⟩, by decide⟩

/-- CommandsReadOnlyContent: TXB differs at TXLEN, the first byte past its content, and agrees below it. -/
theorem witness_same_content_txb :
    SameContent { State.reset with txlen := 1, mem := cells 0x100 [7, 8] } { State.reset with txlen := 1, mem := cells 0x100 [7, 9] } ∧
    ∃ t, exec (.buildReq 3) { State.reset with txlen := 1, mem := cells 0x100 [7, 8] } = .next t := by
  refine ⟨⟨rfl, ?_, ?_, ?_, ?_⟩, _, rfl⟩
  · decide
  · decide
  · decide
  · decide

/-- OnlyNamedCommandsWriteEachRegister: a command that changes TXB and TXLEN, DBUF and DLEN, DLEN alone, CRC, RES, WVAL,
VCNT and VARR. -/
theorem witness_writers :
    seen (exec (.buildReq 3) State.reset) (fun t => t.txlen) = some 4 ∧ seen (exec (.crcByte 1) State.reset) State.crc =
      some 0x807E ∧ seen (exec (.predict 5) State.reset) State.res = some 8 ∧
    seen (exec (.payloadWrite 6) (dataState [1, 2])) State.wval = some 0x0102 ∧
    seen (exec .encCoil (dataState [1])) (fun t => (t.dlen, t.byteAt 0x300)) = some (2, 0) ∧
    seen (exec .clr (dataState [1])) (fun t => (t.dlen, t.byteAt 0x300)) = some (0, 1) ∧
    seen (exec .decBits { dataState [1] with cnt := 1 }) (fun t => (t.vcnt, t.varr 0)) = some (1, 1) := by decide

/-- EncRegIScalesAndChecks: D = 11 and 15, then the last value each way outside and inside the bounds, S = 1 and S = 0. -/
theorem witness_enc_reg_i : 10 < 11 ∧ 10 < 15 ∧
    (valState 0xFFFFFFFFFFFF7FFF).val.toInt * 10 ^ 0 < -32768 ∧ (valState 0xFFFFFFFFFFFFFFFF).val.toInt * 10 ^ 0 < 0 ∧
    32767 < (valState 0x8000).val.toInt * 10 ^ 0 ∧ 65535 < (valState 7).val.toInt * 10 ^ 4 ∧
    (-32768 ≤ (valState 0xFFFFFFFFFFFF8000).val.toInt * 10 ^ 0 ∧ (valState 0xFFFFFFFFFFFF8000).val.toInt * 10 ^ 0 ≤ 32767) ∧
    (0 ≤ (valState 65535).val.toInt * 10 ^ 0 ∧ (valState 65535).val.toInt * 10 ^ 0 ≤ 65535) := by decide

/-- The magnitude of a binary64 pattern scaled by 10^D and rounded, and its integer part (R127). -/
def scaled (v : DWord) (d : Nat) : Nat × Nat :=
  let p := binary64.rne (binary64.mag (v.toNat % 2 ^ 63) * 10 ^ d) binary64.unit
  (p, binary64.mag p / binary64.unit)

/-- EncRegFScalesTruncatesAndChecks: infinity, the greatest finite value times 10, then 32768, -32769, 32767, 65535 and
-0.5 (R127). -/
theorem witness_enc_reg_f : 0x7FF0000000000000 ≤ (0xFFF0000000000000 : DWord).toNat % 2 ^ 63 ∧
    ((0x7FEFFFFFFFFFFFFF : DWord).toNat % 2 ^ 63 < 0x7FF0000000000000 ∧
      0x7FF0000000000000 ≤ (scaled 0x7FEFFFFFFFFFFFFF 1).1) ∧
    (scaled 0x40E0000000000000 0).2 = 32768 ∧
    ((0xC0E0002000000000 : DWord).getLsbD 63 = true ∧ (scaled 0xC0E0002000000000 0).2 = 32769) ∧
    (scaled 0x40DFFFC000000000 0).2 = 32767 ∧ (scaled 0x40EFFFE000000000 0).2 = 65535 ∧
    ((0xBFE0000000000000 : DWord).getLsbD 63 = true ∧ (scaled 0xBFE0000000000000 0).2 = 0) := by decide +kernel

/-- DecRegGivesIntegerOrQuotient: D = 11; three bytes; two bytes with D = 0, and with D = 1 and D = 10. -/
theorem witness_dec_reg : 10 < 11 ∧ ((dataState [1, 2, 3]).dlen.val ≠ 2) ∧ (dataState [0x80, 0x00]).dlen.val = 2 ∧
    0x8000 ≤ 256 * ((dataState [0x80, 0x00]).byteAt 0x300).toNat + ((dataState [0x80, 0x00]).byteAt 0x301).toNat ∧
    0 < 1 ∧ 10 ≤ 10 := by decide

/-- EncLongChecksAndOrders: the last values outside and inside the bounds, S = 1 and S = 0. -/
theorem witness_enc_long : (valState 0xFFFFFFFF7FFFFFFF).val.toInt < -2 ^ 31 ∧ (valState 0xFFFFFFFFFFFFFFFF).val.toInt < 0 ∧
    2 ^ 31 - 1 < (valState 0x80000000).val.toInt ∧ 2 ^ 32 - 1 < (valState 0x100000000).val.toInt ∧
    (-2 ^ 31 ≤ (valState 0xFFFFFFFF80000000).val.toInt ∧ (valState 0xFFFFFFFF80000000).val.toInt ≤ 2 ^ 31 - 1) ∧
    (0 ≤ (valState 0xFFFFFFFF).val.toInt ∧ (valState 0xFFFFFFFF).val.toInt ≤ 2 ^ 32 - 1) := by decide

/-- DecLongReadsEachOrder: a wrong length, and the wire bytes of 0x80000000 in order 3. -/
theorem witness_dec_long : (dataState [1]).dlen.val ≠ 4 ∧ (dataState [0x00, 0x80, 0x00, 0x00]).dlen.val = 4 ∧
    0x80000000 < 2 ^ 32 ∧ (dataState [0x00, 0x80, 0x00, 0x00]).bytesAt 0x300 4 = wireWord .littleSwapped 0x80000000 := by
  decide

/-- EncFloatNarrowsAndOrders: a NaN, infinity, the least value that overflows binary32 and the one below it. -/
theorem witness_enc_float : 0x7FF0000000000000 < (0x7FF0000000000001 : DWord).toNat % 2 ^ 63 ∧
    (0xFFF0000000000000 : DWord).toNat % 2 ^ 63 = 0x7FF0000000000000 ∧
    0x7F800000 ≤ binary32.rne (binary64.mag 0x47EFFFFFF0000000) binary64.unit ∧
    binary32.rne (binary64.mag 0x47EFFFFFEFFFFFFF) binary64.unit < 0x7F800000 := by decide +kernel

/-- DecFloatWidensExactly: wrong lengths, a binary64, and binary32 NaN, infinity and least subnormal. -/
theorem witness_dec_float : (dataState [1]).dlen.val ≠ 4 ∧ (dataState [1]).dlen.val ≠ 8 ∧
    ((dataState [8, 7, 6, 5, 4, 3, 2, 1]).dlen.val = 8 ∧ 0x0102030405060708 < 2 ^ 64 ∧
      (dataState [8, 7, 6, 5, 4, 3, 2, 1]).bytesAt 0x300 8 = wireDWord .little 0x0102030405060708) ∧
    ((dataState [0xFF, 0x80, 0x00, 0x01]).bytesAt 0x300 4 = wireWord .big 0xFF800001 ∧ 0x7F800000 < 0xFF800001 % 2 ^ 31) ∧
    ((dataState [0x00, 0x00, 0x7F, 0x80]).bytesAt 0x300 4 = wireWord .bigSwapped 0x7F800000 ∧
      0x7F800000 % 2 ^ 31 = 0x7F800000) ∧
    ((dataState [0x01, 0x00, 0x00, 0x80]).bytesAt 0x300 4 = wireWord .little 0x80000001 ∧
      0x80000001 % 2 ^ 31 < 0x7F800000) := by decide

/-- LongsAndDoublesRoundTrip. -/
theorem witness_long_round_trip : ∃ t, exec (.encLong true .bigSwapped) (valState 0xFFFFFFFFFFFFFFFE) = .next t ∧
    t.status.err = false := ⟨_, rfl, rfl⟩

/-- RoundingIsToNearestEven: a tie just below the overflow bound of binary32, and the bound itself. -/
theorem witness_rounding : 0 < 1 ∧ (2 ^ 128 - 2 ^ 103) * 1 ≤ 2 ^ 128 - 2 ^ 103 ∧
    2 ^ 128 - 2 ^ 103 - 2 ^ 104 < (2 ^ 128 - 2 ^ 103) * 1 := by decide

/-- NarrowingUndoesWidening: a quiet NaN and a finite pattern. -/
theorem witness_narrowing : (¬ (0x7F800000 < (0xFFC00001 : Word).toNat % 2 ^ 31 ∧ (0xFFC00001 : Word).getLsbD 22 = false)) ∧
    ¬ (0x7F800000 < (0x00000001 : Word).toNat % 2 ^ 31 ∧ (0x00000001 : Word).getLsbD 22 = false) := by decide

/-- A state with `n` entries in VARR that nothing has written, and CNT = n. -/
def counted (n : Nat) : State := { State.reset with vcnt := Fin.ofNat 2049 n, cnt := BitVec.ofNat 16 n }

/-- EncRegListConcatenatesWords: list count, capacity at 129, the first bad entry, and a list that passes. -/
theorem witness_enc_reglist : (listState [1]).vcnt.val ≠ (listState [1]).cnt.toNat ∧
    ((counted 129).vcnt.val = (counted 129).cnt.toNat ∧ 128 < (counted 129).cnt.toNat) ∧
    (0xFFFF < ((listState [0xFFFF, 0x10000]).varr 1).toNat ∧ ∀ j, j < 1 → ((listState [0xFFFF, 0x10000]).varr j).toNat ≤ 0xFFFF) ∧
    ({ listState [0xFFFF, 0] with cnt := 2 }.vcnt.val = 2 ∧
      ∀ k, k < 2 → ({ listState [0xFFFF, 0] with cnt := 2 }.varr k).toNat ≤ 0xFFFF) := by decide

/-- DecRegListReadsBigEndianWords. -/
theorem witness_dec_reglist : { dataState [1] with cnt := 1 }.dlen.val ≠ 2 * 1 ∧
    { dataState [1, 2] with cnt := 1 }.dlen.val = 2 * 1 ∧ State.reset.dlen.val = 2 * State.reset.cnt.toNat := by decide

/-- EncBitsPacksLowBitFirst and BitListRoundTrip. -/
theorem witness_enc_bits : (1 < 2 ∧ 1 < ((listState [1, 2]).varr 1).toNat ∧ ∀ j, j < 1 → ((listState [1, 2]).varr j).toNat ≤ 1) ∧
    (∀ k, k < 9 → ((listState [1, 0, 1, 1, 0, 0, 0, 0, 1]).varr k).toNat ≤ 1) ∧
    ∃ t, exec .encBits (listState [1, 0, 1, 1, 0, 0, 0, 0, 1]) = .next t ∧ t.status.err = false :=
  ⟨by decide, by decide, _, rfl, by decide⟩

/-- DecBitsUnpacksLowBitFirst: one byte for 9 bits, and for 8. -/
theorem witness_dec_bits : { dataState [1] with cnt := 9 }.dlen.val ≠ (9 + 7) / 8 ∧
    { dataState [1] with cnt := 8 }.dlen.val = (8 + 7) / 8 := by decide

/-- EncCoilWritesTheModbusValue. -/
theorem witness_enc_coil : 1 < (valState 2).val.toNat ∧ (valState 1).val = 1 ∧ (valState 0).val = 0 := by decide

/-- WordSwapExchangesTheHalves. -/
theorem witness_word_swap : (dataState [1, 2, 3]).dlen.val % 2 = 1 ∧ (dataState [1, 2]).dlen.val % 2 = 0 := by decide

/-- PayloadReadBuildsTheRequest: an unsupported code, counts 0, 2001, 126, 2000, 125 and 1. -/
theorem witness_payload_read : 5 ∉ [1, 2, 3, 4] ∧ (counted 0).cnt.toNat < 1 ∧
    (2000 < (2001 : Half).toNat ∧ 125 < (126 : Half).toNat) ∧
    ((1 : Half).toNat ≤ 2000 ∧ (2000 : Half).toNat ≤ 2000 ∧ (125 : Half).toNat ≤ 125) := by decide

/-- PayloadWriteBuildsTheRequest: an unsupported code, three bytes for 6, two for 5, and for 15 and 16 counts 0, 1969 and
124, a wrong length, and a right one. -/
theorem witness_payload_write : 3 ∉ [5, 6, 15, 16] ∧ (dataState [1, 2, 3]).dlen.val ≠ 2 ∧ (dataState [1, 2]).dlen.val = 2 ∧
    (counted 0).cnt.toNat < 1 ∧ 1968 < (1969 : Half).toNat ∧ 123 < (124 : Half).toNat ∧
    (dataState [1]).dlen.val ≠ (10 + 7) / 8 ∧ (dataState [1, 2]).dlen.val = (10 + 7) / 8 ∧
    (dataState [1, 2]).dlen.val = 2 * 1 := by decide

/-- BuildReqAssemblesTheFrame: an unsupported code, 253 bytes, and 252. -/
theorem witness_build_req : 17 ∉ [1, 2, 3, 4, 5, 6, 15, 16] ∧ 252 < { State.reset with dlen := 253 }.dlen.val ∧
    { State.reset with dlen := 252 }.dlen.val ≤ 252 := by decide

/-- The two CRCs PARSE_RSP compares. -/
def crcs (s : State) : Half × Half :=
  (specCrc (s.bytesAt 0x200 (s.rxlen.val - 2)),
    s.byteAt (0x200 + s.rxlen.val - 1) ++ s.byteAt (0x200 + s.rxlen.val - 2))

/-- ParseRspChecksInOrderAndExtracts, its failures: the frames of V-PRS-2, 5, 6, 9, 12 and 7 meet each clause. -/
theorem witness_parse_rsp_fails : 7 ∉ [1, 2, 3, 4, 5, 6, 15, 16] ∧ (frameState 1 [1, 3, 4]).rxlen.val < 4 ∧
    (crcs (frameState 1 [1, 3, 4, 0, 0x0A, 0, 0x14, 0xDA, 0x3F])).1 ≠
      (crcs (frameState 1 [1, 3, 4, 0, 0x0A, 0, 0x14, 0xDA, 0x3F])).2 ∧
    ((crcs (frameState 1 [2, 3, 4, 0, 0x0A, 0, 0x14, 0xE9, 0x3E])).1 =
      (crcs (frameState 1 [2, 3, 4, 0, 0x0A, 0, 0x14, 0xE9, 0x3E])).2 ∧ (2 : Byte) ≠ 1) ∧
    ((crcs (frameState 1 [1, 0x83, 2, 0xC0, 0xF1])).1 = (crcs (frameState 1 [1, 0x83, 2, 0xC0, 0xF1])).2 ∧
      (0x83 : Byte).getLsbD 7 = true ∧ (2 : Byte).toNat ∈ [1, 2, 3, 4, 6, 7, 8, 10, 11]) ∧
    ((crcs (frameState 1 [1, 0x83, 0x41, 0x81])).1 = (crcs (frameState 1 [1, 0x83, 0x41, 0x81])).2 ∧
      (0x41 : Byte).toNat ∉ [1, 2, 3, 4, 5, 6, 7, 8, 10, 11]) ∧
    ((crcs (frameState 1 [1, 4, 4, 0, 0x0A, 0, 0x14, 0xDB, 0x89])).1 =
      (crcs (frameState 1 [1, 4, 4, 0, 0x0A, 0, 0x14, 0xDB, 0x89])).2 ∧ (4 : Byte).toNat % 128 ≠ 3) := by decide

/-- ParseRspChecksInOrderAndExtracts, its success, and CorruptedByteFailsTheChecksum: the 4-byte frame of V-PRS-15 and the
pass-through of V-PRS-14. -/
theorem witness_parse_rsp_passes :
    (4 ≤ (frameState 1 [1, 3, 0x40, 0x21]).rxlen.val ∧
      (crcs (frameState 1 [1, 3, 0x40, 0x21])).1 = (crcs (frameState 1 [1, 3, 0x40, 0x21])).2 ∧
      (frameState 1 [1, 3, 0x40, 0x21]).byteAt 0x200 = (frameState 1 [1, 3, 0x40, 0x21]).addr ∧
      ((frameState 1 [1, 3, 0x40, 0x21]).byteAt 0x201).toNat % 128 = 3) ∧
    (3 < (frameState 1 [1, 3, 0x40, 0x21]).rxlen.val ∧ (0x20 : Byte) ≠ (frameState 1 [1, 3, 0x40, 0x21]).byteAt 0x203) ∧
    ((crcs (frameState 1 [1, 0x81, 5, 0x80, 0x53])).1 = (crcs (frameState 1 [1, 0x81, 5, 0x80, 0x53])).2 ∧
      ((frameState 1 [1, 0x81, 5, 0x80, 0x53]).byteAt 0x201).getLsbD 7 = true ∧
      (frameState 1 [1, 0x81, 5, 0x80, 0x53]).byteAt 0x202 = 5 ∧
      ((frameState 1 [1, 0x81, 5, 0x80, 0x53]).byteAt 0x201).toNat % 128 = 1) := by decide

/-- ValidateRspChecksAndStrips on reads: V-VAL-2, 3, 4 and 1. -/
theorem witness_validate_read : 8 ∉ [1, 2, 3, 4, 5, 6, 15, 16] ∧ (dataState []).dlen.val < 1 ∧
    ((dataState [5, 0, 10, 0, 20]).byteAt 0x300).toNat ≠ (dataState [5, 0, 10, 0, 20]).dlen.val - 1 ∧
    (((dataState [4, 0, 10, 0, 20]).byteAt 0x300).toNat = (dataState [4, 0, 10, 0, 20]).dlen.val - 1 ∧
      (dataState [4, 0, 10, 0, 20]).dlen.val - 1 ≠ 2 * (3 : Half).toNat ∧
      (dataState [4, 0, 10, 0, 20]).dlen.val - 1 = 2 * (2 : Half).toNat) := by decide

/-- ValidateRspChecksAndStrips on writes: V-VAL-12, 11, 14, 10, 9 and 13. -/
theorem witness_validate_write : (dataState [0, 1, 0, 2, 0]).dlen.val ≠ 4 ∧ (dataState [0, 1, 0, 2]).dlen.val = 4 ∧
    256 * ((dataState [0, 2, 0, 2]).byteAt 0x300).toNat + ((dataState [0, 2, 0, 2]).byteAt 0x301).toNat ≠ (1 : Half).toNat ∧
    256 * ((dataState [0, 1, 0, 2]).byteAt 0x300).toNat + ((dataState [0, 1, 0, 2]).byteAt 0x301).toNat = (1 : Half).toNat ∧
    256 * ((dataState [0, 1, 0, 2]).byteAt 0x302).toNat + ((dataState [0, 1, 0, 2]).byteAt 0x303).toNat ≠ (3 : Half).toNat ∧
    256 * ((dataState [0, 1, 0, 2]).byteAt 0x302).toNat + ((dataState [0, 1, 0, 2]).byteAt 0x303).toNat = (2 : Half).toNat := by
  decide

/-- BuiltFrameParsesBack. -/
theorem witness_built_frame : ∃ t, exec (.buildReq 3) (dataState [0, 0, 0, 2]) = .next t ∧ t.status.err = false :=
  ⟨_, rfl, rfl⟩

/-- PredictGivesTheResponseSize: a write, a read with 3 bytes and with 4, and an unsupported code. -/
theorem witness_predict : 15 ∈ [5, 6, 15, 16] ∧ (dataState [0, 0, 0]).dlen.val < 4 ∧ 4 ≤ (dataState [0, 0, 0, 2]).dlen.val ∧
    7 ∉ [1, 2, 3, 4, 5, 6, 15, 16] := by decide

/-- RefusedAccessChangesNothing: a refused write and a refused read. -/
theorem witness_refused : (∃ t, step (pending (.write 0x100 1 0)) = .next t ∧ t.resp = .writeError) ∧
    ∃ t, step (pending (.read 0x48 4)) = .next t ∧ t.resp = .readError 0 := ⟨⟨_, rfl, rfl⟩, _, rfl, rfl⟩

/-- ReadsHaveNoSideEffect and RegistersReadAtTheirOffsets: the first and last register, 4 bytes and 1. -/
theorem witness_register_reads : (pending (.read (regOffset .id) 4)).queue = [.read 0x000 4] ∧
    (pending (.read (regOffset .vcnt) 1)).queue = [.read 0x044 1] := by decide

/-- RegisterWritesAreCheckedAndStored: the greatest legal value and the least illegal one of two registers, a register that
is read-only, STATUS and CMD. -/
theorem witness_register_writes : writeLegal 0xFF .addr ∧ ¬ writeLegal 0x100 .addr ∧ writeLegal 256 .rxlen ∧
    ¬ writeLegal 257 .rxlen ∧ ¬ writeLegal 0 .id ∧ Reg.addr ≠ .cmd ∧ Reg.addr ≠ .status ∧
    (pending (.write (regOffset .rxlen) 4 256)).queue = [.write 0x03C 4 256] ∧
    (pending (.write 0x008 4 2)).queue = [.write 0x008 4 2] ∧ (pending (.write 0x004 4 1)).queue = [.write 0x004 4 1] := by
  unfold writeLegal
  decide

/-- BufferReadsAreLittleEndian and BufferWritesStoreOnlyTheirBytes: both ends of the windows, aligned and not. -/
theorem witness_buffers : (0x100 ≤ 0x100 ∧ 0x3FF < 0x400 ∧ 0x3FC % 4 = 0 ∧ 0x3FD % 4 ≠ 0 ∧ 0x200 ≤ 0x200 ∧ 0x1FF < 0x200) ∧
    (pending (.read 0x3FC 4)).queue = [.read 0x3FC 4] ∧ (pending (.write 0x200 4 1)).queue = [.write 0x200 4 1] := by decide

/-- TableWindowsHoldWholeEntries: the last entries, and both ends of CRCTAB. -/
theorem witness_tables : 2047 < 2048 ∧ 0x1FFF < 0x2000 + 4 * 0 ∧ 0x2000 + 4 * 2047 + 4 ≤ 0x4000 ∧ 255 < 256 ∧ 0x400 ≤ 0x400 ∧ 0x7FF < 0x800 ∧
    (pending (.write (0x2000 + 4 * 2047) 4 9)).queue = [.write 0x3FFC 4 9] ∧
    (pending (.read (0x400 + 4 * 255) 4)).queue = [.read 0x7FC 4] ∧
    (pending (.write 0x7FF 1 0)).queue = [.write 0x7FF 1 0] := by decide

/-- RestOfTheMapIsRefused: both ends of the reserved ranges, past the window, a width, and an alignment. -/
theorem witness_rest : (0x48 ≤ 0x48 ∧ 0xFF < 0x100) ∧ (0x800 ≤ 0x800 ∧ 0x1FFF < 0x2000) ∧ 0x4000 ≤ 0x4000 ∧
    (2 ≠ 1 ∧ 2 ≠ 4) ∧ (0x47 < 0x48 ∧ 0x47 % 4 ≠ 0) ∧ (0x2000 < 0x4000 ∧ 1 ≠ 4) ∧
    (pending (.read 0x48 4)).queue = [.read 0x48 4] ∧ (pending (.write 0x4000 4 1)).queue = [.write 0x4000 4 1] := by decide

/-- HostStatementsLoadAndCheck: an empty list, and `chk` pending. -/
theorem witness_host_statements : ([] : List Byte).length ≤ 256 ∧ ([1, 2] : List Word).length ≤ 2048 ∧
    (queued [.check, .read 0 4]).queue = .check :: [.read 0 4] := by decide

end Sys2Proof.Tests
end

section
/-! PROOFS. Encoding undoes decoding (30_encoding.md R81, R87 to R89). The encoder packs the fields back at the places the
decoder took them from, so packing a word's own opcode and fields gives the word, but for bits [31:24]. The acceptance
test of R87 makes the rest of the argument: every bit of the format's mask above the opcode is 0, so bits [31:24] are, and
so are the fields the format does not use. -/

namespace Sys2Proof

/-! ## Packing the fields of a word -/

/-- The codes of R83 read back. -/
@[simp] theorem ByteOrder.code_ofCode (c : BitVec 2) : (ByteOrder.ofCode c).code = c := by
  revert c
  decide

@[simp] theorem FloatWidth.bit_ofBit (b : Bool) : (FloatWidth.ofBit b).bit = b := by
  cases b <;> rfl

/-- A bit is the run of length 1 at its place. -/
theorem ofBool_getLsbD (w : Word) (k : Nat) : BitVec.ofBool (w.getLsbD k) = w.extractLsb' k 1 := by
  ext i hi
  simp [show i = 0 by omega]

/-- A run of bits put back at its place keeps the word's bits there and is 0 elsewhere. -/
theorem getLsbD_putBack (w : Word) (start len i : Nat) :
    ((w.extractLsb' start len).setWidth 32 <<< start).getLsbD i =
      (decide (start ≤ i ∧ i < start + len) && w.getLsbD i) := by
  rw [BitVec.getLsbD_shiftLeft, BitVec.getLsbD_setWidth, BitVec.getLsbD_extractLsb']
  rcases Nat.lt_or_ge i start with hs | hs
  · simp [hs]
  · rw [Nat.add_sub_cancel' hs]
    cases hw : w.getLsbD i with
    | false => simp
    | true =>
      have hwidth : i < 32 := BitVec.lt_of_getLsbD hw
      simp only [Bool.and_true, ← decide_not, ← Bool.decide_and, decide_eq_decide]
      omega

/-- Packing a word's opcode and fields (R80, R92) gives the runs of bits back at their places. -/
theorem packWord_fieldsOf_eq_or (w : Word) : packWord (opField w) (fieldsOf w) =
    (w.extractLsb' 0 8).setWidth 32 <<< 0 ||| (w.extractLsb' 8 2).setWidth 32 <<< 8 |||
      (w.extractLsb' 10 1).setWidth 32 <<< 10 ||| (w.extractLsb' 11 1).setWidth 32 <<< 11 |||
      (w.extractLsb' 12 4).setWidth 32 <<< 12 ||| (w.extractLsb' 16 8).setWidth 32 <<< 16 := by
  simp only [packWord, fieldsOf, opField, ByteOrder.code_ofCode, FloatWidth.bit_ofBit, ofBool_getLsbD,
    BitVec.shiftLeft_zero]

/-- Unpacking and packing keep every bit but those of [31:24], which no field holds. -/
theorem packWord_fieldsOf {w : Word} (htop : w.extractLsb' 24 8 = 0) : packWord (opField w) (fieldsOf w) = w := by
  rw [packWord_fieldsOf_eq_or]
  refine BitVec.eq_of_getLsbD_eq fun i hi => ?_
  simp only [BitVec.getLsbD_or, getLsbD_putBack]
  cases hw : w.getLsbD i with
  | false => simp
  | true =>
    have hlow : i < 24 := by
      by_contra hge
      have hbit : (w.extractLsb' 24 8).getLsbD (i - 24) = true := by
        rw [BitVec.getLsbD_extractLsb', Nat.add_sub_cancel' (Nat.le_of_not_lt hge), hw, Bool.and_true,
          decide_eq_true_iff]
        omega
      simp [htop] at hbit
    simp only [Bool.and_true, ← Bool.decide_or, decide_eq_true_iff]
    omega

/-! ## The fields a format uses -/

/-- The fields with those a mask covers set to 0: under a format's mask, those the format does not use (R81). -/
def Fields.clearMasked (m : Word) (f : Fields) : Fields where
  bo  := if m.extractLsb' 8 2 = .allOnes 2 then .big else f.bo
  sg  := if m.getLsbD 10 = true then false else f.sg
  w   := if m.getLsbD 11 = true then .single else f.w
  d   := if m.extractLsb' 12 4 = .allOnes 4 then 0 else f.d
  imm := if m.extractLsb' 16 8 = .allOnes 8 then 0 else f.imm

/-- A run of bits above the opcode that the mask covers is 0 in an accepted word. -/
theorem extract_eq_zero_of_masked {w m : Word} {op : Byte} {start len : Nat} (h : w &&& m = op.setWidth 32)
    (hstart : 8 ≤ start) (hm : m.extractLsb' start len = BitVec.allOnes len) : w.extractLsb' start len = 0 := by
  calc w.extractLsb' start len
      = (w &&& m).extractLsb' start len := by rw [BitVec.extractLsb'_and, hm, BitVec.and_allOnes]
    _ = (op.setWidth 32).extractLsb' start len := by rw [h]
    _ = 0 := by
      ext i hi
      simp [BitVec.getLsbD_of_ge op (start + i) (by omega)]

/-- A bit above the opcode that the mask covers is 0 in an accepted word. -/
theorem getLsbD_eq_false_of_masked {w m : Word} {op : Byte} {i : Nat} (h : w &&& m = op.setWidth 32)
    (hi : 8 ≤ i) (hm : m.getLsbD i = true) : w.getLsbD i = false := by
  have hbit := congrArg (·.getLsbD i) h
  simpa [hm, BitVec.getLsbD_of_ge op i hi] using hbit

/-- Every field the mask covers is 0 in an accepted word (R89). -/
theorem clearMasked_fieldsOf {w m : Word} {op : Byte} (h : w &&& m = op.setWidth 32) :
    Fields.clearMasked m (fieldsOf w) = fieldsOf w := by
  simp only [Fields.clearMasked, fieldsOf, Fields.mk.injEq, ite_eq_right_iff]
  refine ⟨fun hbo => ?_, fun hsg => ?_, fun hw => ?_, fun hd => ?_, fun himm => ?_⟩
  · rw [extract_eq_zero_of_masked h (by decide) hbo]
    rfl
  · rw [getLsbD_eq_false_of_masked h (by decide) hsg]
  · rw [getLsbD_eq_false_of_masked h (by decide) hw]
    rfl
  · rw [extract_eq_zero_of_masked h (by decide) hd]
  · rw [extract_eq_zero_of_masked h (by decide) himm]

/-! ## The rows of the opcode map -/

/-- Four bits of D and eight of FC fit the command's fields (R85, R86). -/
theorem wf_build {r : OpRow} (hr : r ∈ opcodeMap) (f : Fields) : (r.build f).wf = true := by
  fin_cases hr <;> simp [Instr.wf, decimalsFit, functionCodeFits, f.d.isLt, f.imm.isLt]

theorem opcode_build {r : OpRow} (hr : r ∈ opcodeMap) (f : Fields) : (r.build f).opcode = r.op := by
  fin_cases hr <;> rfl

/-- The command of a row carries the fields its format uses, and 0 for the others (R81). -/
theorem fields_build {r : OpRow} (hr : r ∈ opcodeMap) (f : Fields) :
    (r.build f).fields = Fields.clearMasked r.fmt.mask f := by
  fin_cases hr <;> simp [Instr.fields, Fields.clearMasked, Fields.zero, Format.mask]

/-- What an accepted word tells (R87): its opcode's row, the acceptance test, and the command of that row. -/
theorem decode_eq_ok {w : Word} {i : Instr} (h : decode w = .ok i) :
    ∃ r ∈ opcodeMap, r.op = opField w ∧ w &&& r.fmt.mask = r.op.setWidth 32 ∧ i = r.build (fieldsOf w) := by
  unfold decode at h
  split at h
  · cases h
  · next r hfind =>
    split at h
    · next hmask =>
      cases h
      exact ⟨r, List.mem_of_find?_eq_some hfind, by simpa using List.find?_some hfind, hmask, rfl⟩
    · cases h

/-- No format uses bits [31:24] (R81). -/
theorem mask_top (fmt : Format) : fmt.mask.extractLsb' 24 8 = BitVec.allOnes 8 := by
  cases fmt <;> rfl

/-- Settles O6: the command carries the word's fields, those its format does not use were 0 in the word already (R89), and
packing the word's own fields gives the word back. -/
theorem encodingUndoesDecoding : Obligations.EncodingUndoesDecoding := by
  unfold Obligations.EncodingUndoesDecoding
  intro w i h
  obtain ⟨r, hr, hop, hmask, rfl⟩ := decode_eq_ok h
  refine ⟨wf_build hr _, ?_⟩
  calc encode (r.build (fieldsOf w))
      = packWord r.op (Fields.clearMasked r.fmt.mask (fieldsOf w)) := by rw [encode, opcode_build hr, fields_build hr]
    _ = packWord (opField w) (fieldsOf w) := by rw [clearMasked_fieldsOf hmask, hop]
    _ = w := packWord_fieldsOf (extract_eq_zero_of_masked hmask (by decide) (mask_top r.fmt))

end Sys2Proof
end

section
/-! PROOFS. The CRC engine's table and registers (40_crc.md R100 to R104). The table is compared with its generation
procedure once; from then on a step of the CRC is stated over the procedure. -/

namespace Sys2Proof

open Sys2Proof.Machine Sys2Proof.Safety

/-! ## The table and the step -/

/-- Settles O22: R100 writes the 256 entries out, so the two agree because they do at each index. -/
theorem crcTableFollowsTheProcedure : Obligations.CrcTableFollowsTheProcedure := by
  unfold Obligations.CrcTableFollowsTheProcedure
  decide

/-- The step of R101 reads the table only, so it is the step over the generation procedure. -/
theorem crcStep_eq_generated (c : Half) (b : Byte) :
    crcStep c b = (c >>> 8) ^^^ crcGenerated (c.setWidth 8 ^^^ b) := by
  rw [crcStep, crcTableFollowsTheProcedure]

/-! ## The word of a command with an immediate -/

/-- In a command whose only field is the byte at bit 16 (R81, R92) the opcode and the byte do not overlap, so the word is
their sum. -/
theorem toNat_packWord_imm (op imm : Byte) :
    (packWord op { Fields.zero with imm := imm }).toNat = op.toNat + 2 ^ 16 * imm.toNat := by
  have hop : op.toNat < 2 ^ 16 := by omega
  have himm : imm.toNat <<< 16 < 2 ^ 32 := by rw [Nat.shiftLeft_eq]; omega
  have hword : packWord op { Fields.zero with imm := imm } = imm.setWidth 32 <<< 16 ||| op.setWidth 32 := by
    simp [packWord, Fields.zero, ByteOrder.code, FloatWidth.bit, BitVec.or_comm]
  calc (packWord op { Fields.zero with imm := imm }).toNat
      = imm.toNat <<< 16 ||| op.toNat := by
        rw [hword, BitVec.toNat_or, BitVec.toNat_shiftLeft, BitVec.toNat_setWidth_of_le (by decide),
          BitVec.toNat_setWidth_of_le (by decide), Nat.mod_eq_of_lt himm]
    _ = imm.toNat <<< 16 + op.toNat := (Nat.shiftLeft_add_eq_or_of_lt hop _).symm
    _ = op.toNat + 2 ^ 16 * imm.toNat := by rw [Nat.shiftLeft_eq]; omega

/-! ## The commands -/

/-- A command that completes without pass-through keeps its writes and takes the STATUS, EEXP and EACT of R253. -/
theorem ends_complete (s t : State) : s.ends (.complete t false) =
    .next { t with status := doneStatus t t.status.resf, eexp := 0, eact := 0 } := rfl

/-- CRC_INIT writes CRC and completes (R103). -/
theorem exec_crcInit (s : State) : exec .crcInit s = s.ends (.complete { s with crc := 0xFFFF } false) := rfl

/-- CRC_BYTE writes the step of R101 to CRC and completes (R104). -/
theorem exec_crcByte (b : Byte) (s : State) :
    exec (.crcByte b) s = s.ends (.complete { s with crc := crcStep s.crc b } false) := rfl

/-- Settles O23: CRC_INIT's one write is CRC, and it completes with RESF as it was. -/
theorem crcInitSetsTheRegister : Obligations.CrcInitSetsTheRegister := by
  unfold Obligations.CrcInitSetsTheRegister
  refine ⟨rfl, fun s => ?_⟩
  rw [exec_crcInit, ends_complete]
  rfl

/-- Settles O24: CRC_BYTE's word holds its byte as the immediate, and its one write is the step, which is the step over the
generation procedure by O22. -/
theorem crcByteAdvancesTheRegister : Obligations.CrcByteAdvancesTheRegister := by
  unfold Obligations.CrcByteAdvancesTheRegister
  refine ⟨fun b => toNat_packWord_imm 0x11 b, fun b s => ?_⟩
  rw [exec_crcByte, ends_complete, crcStep_eq_generated]
  rfl

end Sys2Proof
end

section
/-! PROOFS. What every numeric command's proof uses: its word (30_encoding.md R92), how its ending becomes the outcome a
statement names (60_exceptions.md R253, R254), and the range check with the store behind it
(41_numeric_codec.md R139). -/

namespace Sys2Proof

open Sys2Proof.Machine Sys2Proof.Safety

/-! ## The word of a command -/

/-- A field put above the bits a word has so far adds its multiple of `2 ^ k`. -/
theorem toNat_or_shiftLeft {w n k : Nat} {a : BitVec w} (b : BitVec n) (ha : a.toNat < 2 ^ k) (hk : k + n ≤ w) :
    (a ||| b.setWidth w <<< k).toNat = a.toNat + 2 ^ k * b.toNat := by
  have hb : b.toNat * 2 ^ k < 2 ^ w :=
    calc b.toNat * 2 ^ k < 2 ^ n * 2 ^ k := Nat.mul_lt_mul_of_pos_right b.isLt (Nat.two_pow_pos k)
      _ = 2 ^ (k + n) := by rw [Nat.mul_comm, Nat.pow_add]
      _ ≤ 2 ^ w := Nat.pow_le_pow_right (by decide) hk
  rw [BitVec.toNat_or, BitVec.toNat_shiftLeft, BitVec.toNat_setWidth_of_le (by omega), Nat.shiftLeft_eq,
    Nat.mod_eq_of_lt hb, Nat.or_comm, Nat.mul_comm, ← Nat.two_pow_add_eq_or_of_lt ha, Nat.add_comm]

/-- The fields of R80 do not overlap, so a word is the sum of their multiples. -/
theorem toNat_packWord (op : Byte) (f : Fields) : (packWord op f).toNat =
    op.toNat + 2 ^ 8 * f.bo.code.toNat + 2 ^ 10 * f.sg.toNat + 2 ^ 11 * f.w.bit.toNat + 2 ^ 12 * f.d.toNat +
      2 ^ 16 * f.imm.toNat := by
  have hop : (op.setWidth 32).toNat = op.toNat := BitVec.toNat_setWidth_of_le (by decide)
  have hbo := toNat_or_shiftLeft (k := 8) f.bo.code (a := op.setWidth 32) (by omega) (by decide)
  have hsg := toNat_or_shiftLeft (k := 10) (BitVec.ofBool f.sg) (by rw [hbo]; omega) (by decide)
  have hw := toNat_or_shiftLeft (k := 11) (BitVec.ofBool f.w.bit) (by rw [hsg, hbo]; omega) (by decide)
  have hd := toNat_or_shiftLeft (k := 12) f.d (by rw [hw, hsg, hbo]; omega) (by decide)
  have himm := toNat_or_shiftLeft (k := 16) f.imm (by rw [hd, hw, hsg, hbo]; omega) (by decide)
  rw [packWord, himm, hd, hw, hsg, hbo, hop, BitVec.toNat_ofBool, BitVec.toNat_ofBool]

@[simp] theorem toNat_code (bo : ByteOrder) : bo.code.toNat = boCode bo := by
  cases bo <;> rfl

@[simp] theorem toNat_bit (w : FloatWidth) : w.bit.toNat = widthCode w := by
  cases w <;> rfl

/-- The word of a command with S and D fields (R82, R85). -/
theorem toNat_packWord_decimals (op : Byte) (sg : Bool) {d : Nat} (hd : d < 16) :
    (packWord op { Fields.zero with sg := sg, d := BitVec.ofNat 4 d }).toNat =
      op.toNat + 2 ^ 10 * sg.toNat + 2 ^ 12 * d := by
  simp [toNat_packWord, Fields.zero, boCode, widthCode, Nat.mod_eq_of_lt hd]

/-- The word of a command with S and BO fields (R82, R83). -/
theorem toNat_packWord_long (op : Byte) (sg : Bool) (bo : ByteOrder) :
    (packWord op { Fields.zero with sg := sg, bo := bo }).toNat = op.toNat + 2 ^ 8 * boCode bo + 2 ^ 10 * sg.toNat := by
  simp [toNat_packWord, Fields.zero, widthCode]

/-- The word of a command with W and BO fields (R83, R84). -/
theorem toNat_packWord_float (op : Byte) (w : FloatWidth) (bo : ByteOrder) :
    (packWord op { Fields.zero with w := w, bo := bo }).toNat =
      op.toNat + 2 ^ 8 * boCode bo + 2 ^ 11 * widthCode w := by
  simp [toNat_packWord, Fields.zero]

/-! ## The ending of a command -/

/-- A failing ending leaves what R254 says. -/
theorem fails_of_ends {i : Instr} {s : State} {e : Ending} {f : Failure} (hexec : exec i s = s.ends e)
    (he : e = .fail f) :
    Fails i s f.code.val f.field.val (BitVec.ofInt 32 f.exp) (BitVec.ofInt 32 f.act) f.sxc := by
  rw [Fails, hexec, he]
  rfl

/-- An ending that stores a list in DBUF and completes fills DBUF with it. -/
theorem fillsData_of_ends {i : Instr} {s : State} {e : Ending} {l : List Byte} (hexec : exec i s = s.ends e)
    (he : e = setD l s fun t => .complete t false) (hl : l.length ≤ 256) : FillsData i s l := by
  refine ⟨_, by rw [hexec, he, setD_of_le hl, ends_complete], fun a => ?_, ?_, rfl⟩
  · exact (State.byteAt_congr rfl rfl a).trans (s.byteAt_store dbufBase l a)
  · exact Nat.mod_eq_of_lt (by omega)

/-- An ending that stores a list in VARR and completes fills VARR with it. -/
theorem fillsList_of_ends {i : Instr} {s : State} {e : Ending} {l : List Word} (hexec : exec i s = s.ends e)
    (he : e = .complete (s.putList l) false) (hl : l.length ≤ 2048) : FillsList i s l := by
  refine ⟨_, by rw [hexec, he, ends_complete], fun k => ?_, fun a ha => ?_, ?_, rfl⟩
  · exact s.varr_putList l k
  · calc (s.putList l).byteAt a
      _ = (s.store varrBase (l.flatMap le4)).byteAt a := State.byteAt_congr rfl rfl a
      _ = s.byteAt a := s.byteAt_store_of_outside (by rwa [length_flatMap_le4])
  · exact Nat.mod_eq_of_lt (by omega)

/-- An ending that sets RES and completes gives that result. -/
theorem givesResult_of_ends {i : Instr} {s : State} {e : Ending} {v : DWord} {resf : Bool} (hexec : exec i s = s.ends e)
    (he : e = .complete (s.setRes v resf) false) : GivesResult i s v resf := by
  rw [GivesResult, hexec, he, ends_complete]
  rfl

/-! ## The range check -/

theorem fitLo_le_fitHi (sg : Bool) (bits : Nat) : fitLo sg bits ≤ fitHi sg bits := by
  have h1 : (0 : Int) < 2 ^ (bits - 1) := by positivity
  have h2 : (0 : Int) < 2 ^ bits := by positivity
  cases sg <;> simp only [fitLo, fitHi, if_true, Bool.false_eq_true, if_false] <;> omega

section RangeCheck

variable {i : Instr} {s : State} {n : Int} {sg : Bool} {bits : Nat} {rest e : Ending}

/-- Below the lower bound the command reports it (R139). -/
theorem fails_of_lt_fitLo (hexec : exec i s = s.ends e) (he : e = fit n sg bits rest) (h : n < fitLo sg bits) :
    Fails i s 3 0x10 (BitVec.ofInt 32 (fitLo sg bits)) (BitVec.ofInt 32 n) :=
  fails_of_ends hexec (he.trans (fit_of_lt h _))

/-- Above the upper bound the command reports it (R139). -/
theorem fails_of_fitHi_lt (hexec : exec i s = s.ends e) (he : e = fit n sg bits rest) (h : fitHi sg bits < n) :
    Fails i s 3 0x10 (BitVec.ofInt 32 (fitHi sg bits)) (BitVec.ofInt 32 n) :=
  fails_of_ends hexec (he.trans (fit_of_gt ((fitLo_le_fitHi sg bits).trans h.le) h _))

end RangeCheck

/-- The bounds of a 16-bit register (R139). -/
theorem fitLo_16 (sg : Bool) : fitLo sg 16 = if sg then -32768 else 0 := by
  cases sg <;> rfl

theorem fitHi_16 (sg : Bool) : fitHi sg 16 = if sg then 32767 else 65535 := by
  cases sg <;> rfl

/-- The bounds of a 32-bit long (R139). -/
theorem fitLo_32 (sg : Bool) : fitLo sg 32 = if sg then -2 ^ 31 else 0 := rfl

theorem fitHi_32 (sg : Bool) : fitHi sg 32 = if sg then 2 ^ 31 - 1 else 2 ^ 32 - 1 := rfl

/-- The decimals check fails a command in the same way everywhere (R85). -/
theorem fails_of_decimals {i : Instr} {s : State} {d : Nat} {rest e : Ending} (hexec : exec i s = s.ends e)
    (he : e = needDecimals d rest) (h : 10 < d) : Fails i s 2 0x02 10 (BitVec.ofNat 32 d) := by
  rw [← BitVec.ofInt_natCast]
  exact fails_of_ends hexec (he.trans (needDecimals_of_gt h _))

/-- The length check fails a command in the same way everywhere (R120). -/
theorem fails_of_length {i : Instr} {s : State} {n : Nat} {rest e : Ending} (hexec : exec i s = s.ends e)
    (he : e = needLength n s rest) (h : s.dlen.val ≠ n) :
    Fails i s 4 0x20 (BitVec.ofNat 32 n) (BitVec.ofNat 32 s.dlen.val) := by
  rw [← BitVec.ofInt_natCast, ← BitVec.ofInt_natCast]
  exact fails_of_ends hexec (he.trans (needLength_of_ne h _))

end Sys2Proof
end

section
/-! PROOFS. The encoders of one register and of a coil (41_numeric_codec.md R126, R127, R137). -/

namespace Sys2Proof

open Sys2Proof.Machine Sys2Proof.Safety

theorem exec_encRegI (sg : Bool) (d : Nat) (s : State) : exec (.encRegI sg d) s = s.ends (encRegI sg d s) := rfl

theorem exec_encRegF (sg : Bool) (d : Nat) (s : State) : exec (.encRegF sg d) s = s.ends (encRegF sg d s) := rfl

theorem exec_encCoil (s : State) : exec .encCoil s = s.ends (encCoil s) := rfl

/-- Settles O42: the three cases of VAL are the branches of the command. -/
theorem encCoilWritesTheModbusValue : Obligations.EncCoilWritesTheModbusValue := by
  unfold Obligations.EncCoilWritesTheModbusValue
  refine ⟨rfl, fun s => ⟨fun h => ?_, fun h => ?_, fun h => ?_⟩⟩
  · rw [← BitVec.ofInt_natCast]
    exact fails_of_ends (exec_encCoil s) (failIf_pos h _ _)
  · exact fillsData_of_ends (exec_encCoil s) (by simp [encCoil, h]) (by decide)
  · exact fillsData_of_ends (exec_encCoil s) (by simp [encCoil, h]) (by decide)

/-- The two bytes of an integer's low 16 bits, the high one first (R7). -/
theorem be2_ofInt (n : Int) : be2 (BitVec.ofInt 16 n) = [BitVec.ofInt 8 (n / 256), BitVec.ofInt 8 n] := by
  have hhigh : byteOf (BitVec.ofInt 16 n) 1 = BitVec.ofInt 8 (n / 256) := by
    apply BitVec.eq_of_toNat_eq
    rw [byteOf_toNat, BitVec.toNat_ofInt, BitVec.toNat_ofInt]
    omega
  have hlow : byteOf (BitVec.ofInt 16 n) 0 = BitVec.ofInt 8 n := by
    apply BitVec.eq_of_toNat_eq
    rw [byteOf_toNat, BitVec.toNat_ofInt, BitVec.toNat_ofInt]
    omega
  rw [be2, hhigh, hlow]

/-- Behind the range check of a register stands the store of its two bytes (R126, R127). -/
theorem fillsData_of_fit16 {i : Instr} {s : State} {n : Int} {sg : Bool} {e : Ending} (hexec : exec i s = s.ends e)
    (he : e = fit n sg 16 (setD (be2 (BitVec.ofInt 16 n)) s fun t => .complete t false))
    (h1 : fitLo sg 16 ≤ n) (h2 : n ≤ fitHi sg 16) :
    FillsData i s [BitVec.ofInt 8 (n / 256), BitVec.ofInt 8 n] := by
  rw [← be2_ofInt]
  exact fillsData_of_ends hexec (he.trans (fit_of_mem h1 h2 _)) (by simp)

/-- Past the decimals check ENC_REG_I is the range check of the exact product (R126). -/
theorem encRegI_of_decimals {d : Nat} (hd : d ≤ 10) (sg : Bool) (s : State) : encRegI sg d s =
    fit (s.val.toInt * 10 ^ d) sg 16
      (setD (be2 (BitVec.ofInt 16 (s.val.toInt * 10 ^ d))) s fun t => .complete t false) :=
  needDecimals_of_le hd _

/-- Settles O27: the decimals check, then the range check of the exact product, then the store. -/
theorem encRegIScalesAndChecks : Obligations.EncRegIScalesAndChecks := by
  unfold Obligations.EncRegIScalesAndChecks
  refine ⟨fun sg d hd => toNat_packWord_decimals 0x20 sg hd, fun sg d s => ?_⟩
  simp only [← fitLo_16, ← fitHi_16]
  exact ⟨fails_of_decimals (exec_encRegI sg d s) rfl,
    fun hd => fails_of_lt_fitLo (exec_encRegI sg d s) (encRegI_of_decimals hd sg s),
    fun hd => fails_of_fitHi_lt (exec_encRegI sg d s) (encRegI_of_decimals hd sg s),
    fun hd => fillsData_of_fit16 (exec_encRegI sg d s) (encRegI_of_decimals hd sg s)⟩

/-- A rounded magnitude is at most infinity (R11). -/
theorem rne_le_infBits (f : Ieee) (n d : Nat) : f.rne n d ≤ f.infBits := Nat.min_le_right _ _

/-- The product overflows when its pattern is not below infinity (R127). -/
theorem scaleBits_eq_infBits_iff (x : DWord) (d : Nat) :
    scaleBits x d = binary64.infBits ↔ 0x7FF0000000000000 ≤ scaleBits x d :=
  ⟨fun h => h.ge, fun h => Nat.le_antisymm (rne_le_infBits binary64 _ _) h⟩

theorem isNaN64_iff (p : DWord) : isNaN64 p = true ↔ 0x7FF0000000000000 < bits64 p := decide_eq_true_iff

theorem isInf64_iff (p : DWord) : isInf64 p = true ↔ bits64 p = 0x7FF0000000000000 := decide_eq_true_iff

/-- NaNs and infinities are the patterns from infinity up (R11). -/
theorem isNaN64_or_isInf64_iff (p : DWord) : isNaN64 p ∨ isInf64 p ↔ 0x7FF0000000000000 ≤ bits64 p := by
  rw [isNaN64_iff, isInf64_iff, eq_comm, ← Nat.le_iff_lt_or_eq]

/-- Past the decimals check, NaN and infinity fail ENC_REG_F (R127). -/
theorem encRegF_of_not_finite {d : Nat} {s : State} (hd : d ≤ 10) (h : 0x7FF0000000000000 ≤ bits64 s.val) (sg : Bool) :
    encRegF sg d s = .fail { code := .range, field := .value, exp := 0, act := 0 } := by
  rw [encRegF, needDecimals_of_le hd, failIf_pos ((isNaN64_or_isInf64_iff _).2 h)]

/-- Past these checks, a product that rounds to infinity fails ENC_REG_F (R127). -/
theorem encRegF_of_overflow {d : Nat} {s : State} (hd : d ≤ 10) (h : bits64 s.val < 0x7FF0000000000000)
    (hp : 0x7FF0000000000000 ≤ scaleBits s.val d) (sg : Bool) :
    encRegF sg d s = .fail { code := .range, field := .value, exp := 0, act := 0 } := by
  rw [encRegF, needDecimals_of_le hd, failIf_neg (fun h' => Nat.not_le.2 h ((isNaN64_or_isInf64_iff _).1 h')),
    failIf_pos ((scaleBits_eq_infBits_iff _ _).2 hp)]

/-- Past all of them ENC_REG_F is the range check of the product's integer part (R127). -/
theorem encRegF_of_finite {d : Nat} {s : State} (hd : d ≤ 10) (h : bits64 s.val < 0x7FF0000000000000)
    (hp : scaleBits s.val d < 0x7FF0000000000000) (sg : Bool) :
    encRegF sg d s = fit (truncInt (sign64 s.val) (scaleBits s.val d)) sg 16
      (setD (be2 (BitVec.ofInt 16 (truncInt (sign64 s.val) (scaleBits s.val d)))) s fun t => .complete t false) := by
  rw [encRegF, needDecimals_of_le hd, failIf_neg (fun h' => Nat.not_le.2 h ((isNaN64_or_isInf64_iff _).1 h')),
    failIf_neg (fun h' => Nat.not_le.2 hp ((scaleBits_eq_infBits_iff _ _).1 h'))]

/-- Settles O28: the decimals check, the check of the pattern and of the rounded product, then the range check of its
integer part, then the store. -/
theorem encRegFScalesTruncatesAndChecks : Obligations.EncRegFScalesTruncatesAndChecks := by
  unfold Obligations.EncRegFScalesTruncatesAndChecks
  refine ⟨fun sg d hd => toNat_packWord_decimals 0x21 sg hd, fun sg d s => ?_⟩
  simp only [← fitLo_16, ← fitHi_16]
  exact ⟨fails_of_decimals (exec_encRegF sg d s) rfl,
    fun hd hm => fails_of_ends (exec_encRegF sg d s) (encRegF_of_not_finite hd hm sg),
    fun hd hm hp => fails_of_ends (exec_encRegF sg d s) (encRegF_of_overflow hd hm hp sg),
    fun hd hm hp => fails_of_lt_fitLo (exec_encRegF sg d s) (encRegF_of_finite hd hm hp sg),
    fun hd hm hp => fails_of_fitHi_lt (exec_encRegF sg d s) (encRegF_of_finite hd hm hp sg),
    fun hd hm hp => fillsData_of_fit16 (exec_encRegF sg d s) (encRegF_of_finite hd hm hp sg)⟩

end Sys2Proof
end

section
/-! PROOFS. Bytes on the wire (41_numeric_codec.md R121, R122, R125): the byte orders of the machine are the tables'. -/

namespace Sys2Proof

open Sys2Proof.Machine Sys2Proof.Safety

theorem byteOf_eq_ofNat {n : Nat} (v : BitVec n) (k : Nat) : byteOf v k = BitVec.ofNat 8 (v.toNat / 2 ^ (8 * k)) :=
  BitVec.eq_of_toNat_eq (byteOf_toNat v k)

/-- The order of R125 on four bytes is the table of R121. -/
theorem order_four (bo : ByteOrder) (b0 b1 b2 b3 : Byte) : order bo [b0, b1, b2, b3] = wire4 bo b0 b1 b2 b3 := by
  cases bo <;> simp [order, isLittle, isSwapped, swapHalves, wire4]

/-- The order of R125 on eight bytes is the table of R122. -/
theorem order_eight (bo : ByteOrder) (b0 b1 b2 b3 b4 b5 b6 b7 : Byte) :
    order bo [b0, b1, b2, b3, b4, b5, b6, b7] = wire8 bo b0 b1 b2 b3 b4 b5 b6 b7 := by
  cases bo <;> simp [order, isLittle, isSwapped, swapHalves, wire8]

theorem order_be4 (bo : ByteOrder) (v : Word) : order bo (be4 v) = wireWord bo v.toNat := by
  simp [be4, order_four, byteOf_eq_ofNat, wireWord]

theorem order_be8 (bo : ByteOrder) (v : DWord) : order bo (be8 v) = wireDWord bo v.toNat := by
  simp [be8, order_eight, byteOf_eq_ofNat, wireDWord]

/-- Reading the wire bytes of a 32-bit number in their order gives the number (R125). -/
theorem unbe_order_wireWord (bo : ByteOrder) {u : Nat} (hu : u < 2 ^ 32) : unbe (order bo (wireWord bo u)) = u := by
  have hwire : wireWord bo u = order bo (be4 (BitVec.ofNat 32 u)) := by
    rw [order_be4, BitVec.toNat_ofNat, Nat.mod_eq_of_lt hu]
  rw [hwire, order_order (by simp), unbe_be4, BitVec.toNat_ofNat, Nat.mod_eq_of_lt hu]

/-- Reading the wire bytes of a 64-bit number in their order gives the number (R125). -/
theorem unbe_order_wireDWord (bo : ByteOrder) {u : Nat} (hu : u < 2 ^ 64) : unbe (order bo (wireDWord bo u)) = u := by
  have hwire : wireDWord bo u = order bo (be8 (BitVec.ofNat 64 u)) := by
    rw [order_be8, BitVec.toNat_ofNat, Nat.mod_eq_of_lt hu]
  rw [hwire, order_order (by simp), unbe_be8, BitVec.toNat_ofNat, Nat.mod_eq_of_lt hu]

/-- The bytes a decoder reads where DLEN is the length it asks for. -/
theorem data_eq_bytesAt {s : State} {n : Nat} (h : s.dlen.val = n) : s.data = s.bytesAt 0x300 n := by
  rw [State.data, h]

end Sys2Proof
end

section
/-! PROOFS. The decoder of one register and the long codec (41_numeric_codec.md R128 to R130). -/

namespace Sys2Proof

open Sys2Proof.Machine Sys2Proof.Safety

theorem exec_decReg (sg : Bool) (d : Nat) (s : State) : exec (.decReg sg d) s = s.ends (decReg sg d s) := rfl

theorem exec_encLong (sg : Bool) (bo : ByteOrder) (s : State) :
    exec (.encLong sg bo) s = s.ends (encLong sg bo s) := rfl

theorem exec_decLong (sg : Bool) (bo : ByteOrder) (s : State) :
    exec (.decLong sg bo) s = s.ends (decLong sg bo s) := rfl

/-! ## Sign extension -/

/-- Sign extension of a 16-bit number takes `2 ^ 16` off from `2 ^ 15` up (R128). -/
theorem rawReg_eq (sg : Bool) {raw : Nat} (h : raw < 2 ^ 16) :
    rawReg sg raw = if sg = true ∧ 0x8000 ≤ raw then (raw : Int) - 0x10000 else (raw : Int) := by
  cases sg with
  | false => rfl
  | true =>
    simp only [rawReg, if_true, true_and, BitVec.toInt_eq_toNat_cond, BitVec.toNat_ofNat, Nat.mod_eq_of_lt h]
    split <;> split <;> omega

/-- Sign extension of a 32-bit number takes `2 ^ 32` off from `2 ^ 31` up (R130). -/
theorem rawLong_eq (sg : Bool) {u : Nat} (h : u < 2 ^ 32) :
    rawLong sg u = if sg = true ∧ 2 ^ 31 ≤ u then (u : Int) - 2 ^ 32 else (u : Int) := by
  cases sg with
  | false => rfl
  | true =>
    simp only [rawLong, if_true, true_and, BitVec.toInt_eq_toNat_cond, BitVec.toNat_ofNat, Nat.mod_eq_of_lt h]
    split <;> split <;> omega

/-! ## DEC_REG -/

/-- Two bytes of DBUF read as a big-endian number (R7). -/
theorem unbe_data_two {s : State} (h : s.dlen.val = 2) :
    unbe s.data = 256 * (s.byteAt 0x300).toNat + (s.byteAt 0x301).toNat := by
  simp [data_eq_bytesAt h, State.bytesAt, List.range_succ, unbe]

/-- Past the decimals check DEC_REG checks the length (R128). -/
theorem decReg_of_decimals {d : Nat} (hd : d ≤ 10) (sg : Bool) (s : State) : decReg sg d s =
    needLength 2 s
      (if d = 0 then .complete (s.setRes (BitVec.ofInt 64 (rawReg sg (unbe s.data))) false) false
       else .complete (s.setRes (quotientBits (rawReg sg (unbe s.data)) d) true) false) :=
  needDecimals_of_le hd _

/-- Settles O29: the decimals check, the length check, then the integer or its quotient. -/
theorem decRegGivesIntegerOrQuotient : Obligations.DecRegGivesIntegerOrQuotient := by
  unfold Obligations.DecRegGivesIntegerOrQuotient
  refine ⟨fun sg d hd => toNat_packWord_decimals 0x22 sg hd, fun sg d s => ?_⟩
  intro raw r
  have hraw : s.dlen.val = 2 → rawReg sg (unbe s.data) = r := fun hlen => by
    rw [unbe_data_two hlen, rawReg_eq sg (by omega)]
  refine ⟨fails_of_decimals (exec_decReg sg d s) rfl,
    fun hd => fails_of_length (exec_decReg sg d s) (decReg_of_decimals hd sg s),
    fun hd hlen => ?_, fun hpos hd hlen => ?_⟩
  · rw [← hraw hlen]
    exact givesResult_of_ends (exec_decReg sg d s)
      (by rw [decReg_of_decimals (by omega), needLength_of_eq hlen, if_pos hd])
  · rw [← hraw hlen]
    refine givesResult_of_ends (exec_decReg sg d s) ?_
    rw [decReg_of_decimals hd, needLength_of_eq hlen, if_neg hpos.ne', quotientBits, pack64]
    simp only [decide_eq_true_eq]

/-! ## The long codec -/

/-- Truncating a 64-bit integer to 32 bits keeps its low bits (R129). -/
theorem toNat_ofInt_toInt (v : DWord) : (BitVec.ofInt 32 v.toInt).toNat = v.toNat % 2 ^ 32 := by
  rw [BitVec.toNat_ofInt, BitVec.toInt_eq_toNat_cond]
  split <;> omega

/-- Settles O30: the range check, then the store of the low 32 bits in their order. -/
theorem encLongChecksAndOrders : Obligations.EncLongChecksAndOrders := by
  unfold Obligations.EncLongChecksAndOrders
  refine ⟨toNat_packWord_long 0x23, fun sg bo s => ?_⟩
  simp only [← fitLo_32, ← fitHi_32]
  refine ⟨fails_of_lt_fitLo (exec_encLong sg bo s) rfl, fails_of_fitHi_lt (exec_encLong sg bo s) rfl, fun hlo hhi => ?_⟩
  rw [← toNat_ofInt_toInt, ← order_be4]
  exact fillsData_of_ends (exec_encLong sg bo s) (fit_of_mem hlo hhi _) (by simp)

/-- Settles O31: the length check, then the number the wire bytes are of. -/
theorem decLongReadsEachOrder : Obligations.DecLongReadsEachOrder := by
  unfold Obligations.DecLongReadsEachOrder
  refine ⟨toNat_packWord_long 0x24, fun sg bo s => fails_of_length (exec_decLong sg bo s) rfl,
    fun sg bo s u hlen hu hbytes => ?_⟩
  have hread : unbe (order bo s.data) = u := by rw [data_eq_bytesAt hlen, hbytes, unbe_order_wireWord bo hu]
  refine givesResult_of_ends (exec_decLong sg bo s) ?_
  rw [decLong, needLength_of_eq hlen, hread, rawLong_eq sg hu]

end Sys2Proof
end

section
/-! PROOFS. Narrowing and the float encoder (41_numeric_codec.md R131, R140). -/

namespace Sys2Proof

open Sys2Proof.Machine Sys2Proof.Safety

theorem exec_encFloat (w : FloatWidth) (bo : ByteOrder) (s : State) :
    exec (.encFloat w bo) s = s.ends (encFloat w bo s) := rfl

/-! ## The sign bit of a pattern -/

/-- The top bit of a pattern as a number. -/
theorem toNat_getLsbD_top {w k : Nat} (v : BitVec w) (hw : w = k + 1) : (v.getLsbD k).toNat = v.toNat / 2 ^ k := by
  subst hw
  have hlt : v.toNat / 2 ^ k < 2 := Nat.div_lt_of_lt_mul (by rw [← Nat.pow_succ]; exact v.isLt)
  rw [BitVec.getLsbD, Nat.testBit_eq_decide_div_mod_eq, Nat.mod_eq_of_lt hlt]
  interval_cases v.toNat / 2 ^ k <;> rfl

/-- A sign bit put above the other bits. -/
theorem sign_or {w k : Nat} (b : Bool) {a : BitVec w} (ha : a.toNat < 2 ^ k) (hw : w = k + 1) :
    (BitVec.ofBool b).setWidth w <<< k ||| a = BitVec.ofNat w (b.toNat * 2 ^ k + a.toNat) := by
  apply BitVec.eq_of_toNat_eq
  rw [BitVec.or_comm, ← Nat.mod_eq_of_lt (BitVec.isLt (a ||| _)), toNat_or_shiftLeft _ ha hw.ge, BitVec.toNat_ofBool,
    BitVec.toNat_ofNat, Nat.add_comm, Nat.mul_comm]

/-- A sign's value is its place or nothing. -/
theorem ite_eq_toNat_mul (b : Bool) (n : Nat) : (if b = true then n else 0) = b.toNat * n := by
  cases b <;> simp

/-! ## Narrowing -/

theorem toNat_sign64 (p : DWord) : (sign64 p).toNat = p.toNat / 2 ^ 63 := toNat_getLsbD_top p rfl

/-- A NaN narrows to the quiet NaN with its sign and the top of its fraction (R140). -/
theorem narrow_of_nan {p : DWord} (h : 0x7FF0000000000000 < bits64 p) :
    narrow p = some (BitVec.ofNat 32 (p.toNat / 2 ^ 63 * 2 ^ 31 + 0x7FC00000 + bits64 p / 2 ^ 29 % 2 ^ 22)) := by
  have hfrac : ((p.extractLsb' 29 22).setWidth 32).toNat = bits64 p / 2 ^ 29 % 2 ^ 22 := by
    rw [BitVec.toNat_setWidth_of_le (by decide), BitVec.extractLsb'_toNat, Nat.shiftRight_eq_div_pow, bits64]
    omega
  have hquiet : ((0x7FC00000 : Word) ||| (p.extractLsb' 29 22).setWidth 32).toNat =
      0x7FC00000 + bits64 p / 2 ^ 29 % 2 ^ 22 := by
    have hor := toNat_or_shiftLeft (k := 22) (0x1FF : BitVec 9) (a := (p.extractLsb' 29 22).setWidth 32)
      (by rw [hfrac]; omega) (by decide)
    rw [hfrac, BitVec.or_comm, Nat.add_comm] at hor
    exact hor
  rw [narrow, if_pos ((isNaN64_iff p).2 h), BitVec.or_assoc, sign_or _ (by rw [hquiet]; omega) rfl, hquiet,
    toNat_sign64, Nat.add_assoc]

/-- An infinity narrows to the infinity of its sign (R140). -/
theorem narrow_of_inf {p : DWord} (h : bits64 p = 0x7FF0000000000000) :
    narrow p = some (BitVec.ofNat 32 (p.toNat / 2 ^ 63 * 2 ^ 31 + 0x7F800000)) := by
  rw [narrow, if_neg (fun hnan => ((isNaN64_iff p).1 hnan).ne' h), if_pos ((isInf64_iff p).2 h),
    sign_or _ (by decide) rfl, toNat_sign64]
  rfl

/-- The pattern of infinity (R11). -/
theorem binary32_infBits : binary32.infBits = 0x7F800000 := rfl

/-- Zero rounds to zero (R11). -/
theorem rne_zero (f : Ieee) (d : Nat) : f.rne 0 d = 0 := by
  simp [Ieee.rne, Ieee.shift, roundDiv]

section Finite

variable {p : DWord} (h : bits64 p < 0x7FF0000000000000)
include h

theorem not_isNaN64_of_lt : ¬ isNaN64 p = true := fun hnan => h.not_gt ((isNaN64_iff p).1 hnan)

theorem not_isInf64_of_lt : ¬ isInf64 p = true := fun hinf => h.ne ((isInf64_iff p).1 hinf)

/-- A finite value whose rounding overflows does not narrow (R140). -/
theorem narrow_of_overflow (hp : 0x7F800000 ≤ binary32.rne (mag64 p) binary64.unit) : narrow p = none := by
  have hmag : mag64 p ≠ 0 := fun h0 => by
    rw [h0, rne_zero] at hp
    omega
  rw [narrow, if_neg (not_isNaN64_of_lt h), if_neg (not_isInf64_of_lt h), if_neg hmag,
    if_pos (Nat.le_antisymm (rne_le_infBits _ _ _) (binary32_infBits ▸ hp))]

/-- A finite value narrows to its rounding with its sign (R140). -/
theorem narrow_of_finite (hp : binary32.rne (mag64 p) binary64.unit < 0x7F800000) :
    narrow p = some (BitVec.ofNat 32 (p.toNat / 2 ^ 63 * 2 ^ 31 + binary32.rne (mag64 p) binary64.unit)) := by
  rw [narrow, if_neg (not_isNaN64_of_lt h), if_neg (not_isInf64_of_lt h), ← toNat_sign64]
  by_cases hmag : mag64 p = 0
  · rw [if_pos hmag, hmag, rne_zero, ← BitVec.or_zero (x := (BitVec.ofBool _).setWidth 32 <<< 31),
      sign_or _ (by decide) rfl]
    rfl
  · rw [if_neg hmag, if_neg (binary32_infBits ▸ hp.ne), pack32, ite_eq_toNat_mul, Nat.add_comm]

end Finite

/-! ## ENC_FLOAT -/

/-- A value that narrows fills DBUF with the bytes of its binary32 pattern (R131). -/
theorem fillsData_of_narrow {s : State} {n : Nat} (h : narrow s.val = some (BitVec.ofNat 32 n)) (hn : n < 2 ^ 32)
    (bo : ByteOrder) : FillsData (.encFloat .single bo) s (wireWord bo n) := by
  have hwire : wireWord bo n = order bo (be4 (BitVec.ofNat 32 n)) := by
    rw [order_be4, BitVec.toNat_ofNat, Nat.mod_eq_of_lt hn]
  rw [hwire]
  exact fillsData_of_ends (exec_encFloat .single bo s) (by simp only [encFloat, h]) (by simp)

/-- Settles O32: binary64 is copied; binary32 follows the four cases of R140. -/
theorem encFloatNarrowsAndOrders : Obligations.EncFloatNarrowsAndOrders := by
  unfold Obligations.EncFloatNarrowsAndOrders
  refine ⟨toNat_packWord_float 0x25, fun bo s => ?_⟩
  intro m sign p
  have hsign : sign ≤ 2 ^ 31 := by omega
  refine ⟨?_, fun hm => ?_, fun hm => ?_, fun hm hp => ?_, fun hm hp => ?_⟩
  · rw [← order_be8]
    exact fillsData_of_ends (exec_encFloat .double bo s) rfl (by simp)
  · exact fillsData_of_narrow (narrow_of_nan hm) (by omega) bo
  · exact fillsData_of_narrow (narrow_of_inf hm) (by omega) bo
  · exact fails_of_ends (f := { code := .range, field := .value, exp := 0, act := 0 }) (exec_encFloat .single bo s)
      (by simp only [encFloat, narrow_of_overflow hm hp])
  · exact fillsData_of_narrow (n := sign + p) (narrow_of_finite hm hp) (by omega) bo

end Sys2Proof
end

section
/-! PROOFS. Widening and the float decoder (41_numeric_codec.md R132, R141). Rounding keeps a value that is a multiple
of its last place, and every binary32 value is one in binary64; so widening is exact. -/

namespace Sys2Proof

open Sys2Proof.Machine Sys2Proof.Safety

theorem exec_decFloat (w : FloatWidth) (bo : ByteOrder) (s : State) :
    exec (.decFloat w bo) s = s.ends (decFloat w bo s) := rfl

/-! ## Values a format holds exactly -/

section Exact

variable {f : Ieee}

/-- The magnitude of the pattern with significand `t` at last place `2 ^ k` (R11). -/
theorem mag_of_place {k t : Nat} (ht : t < 2 ^ (f.frac + 1)) (hk : k = 0 ∨ 2 ^ f.frac ≤ t) :
    f.mag (k * 2 ^ f.frac + t) = t * 2 ^ k := by
  have hpos : 0 < 2 ^ f.frac := Nat.two_pow_pos _
  rw [Nat.pow_succ] at ht
  rcases Nat.lt_or_ge t (2 ^ f.frac) with hlt | hge
  · obtain rfl : k = 0 := hk.resolve_right (Nat.not_le.2 hlt)
    simp [Ieee.mag, Nat.div_eq_of_lt hlt, Nat.mod_eq_of_lt hlt]
  · obtain ⟨r, rfl⟩ := Nat.exists_eq_add_of_le hge
    have hr : r < 2 ^ f.frac := by omega
    have hbits : k * 2 ^ f.frac + (2 ^ f.frac + r) = r + 2 ^ f.frac * (k + 1) := by ring
    rw [hbits, Ieee.mag, Nat.add_mul_div_left _ _ hpos, Nat.add_mul_mod_self_left, Nat.div_eq_of_lt hr,
      Nat.mod_eq_of_lt hr, Nat.zero_add, if_neg (Nat.succ_ne_zero k), Nat.add_sub_cancel]

/-- The significand of a magnitude at its last place fits the format (R11). -/
theorem div_shift_lt (m : Nat) : m / 2 ^ f.shift m < 2 ^ (f.frac + 1) := by
  apply Nat.div_lt_of_lt_mul
  rw [← Nat.pow_add]
  exact Nat.lt_log2_self.trans_le (Nat.pow_le_pow_right (by decide) (by simp only [Ieee.shift]; omega))

/-- Above the subnormals the significand has its top bit (R11). -/
theorem shift_eq_zero_or_le_div (m : Nat) : f.shift m = 0 ∨ 2 ^ f.frac ≤ m / 2 ^ f.shift m := by
  rcases Nat.eq_zero_or_pos (f.shift m) with hzero | hpos
  · exact .inl hzero
  · have hlog : f.frac + f.shift m = Nat.log2 m := by simp only [Ieee.shift] at hpos ⊢; omega
    have hm : m ≠ 0 := fun h => by simp [Ieee.shift, h] at hpos
    refine .inr ((Nat.le_div_iff_mul_le (Nat.two_pow_pos _)).2 ?_)
    rw [← Nat.pow_add, hlog]
    exact Nat.log2_self_le hm

/-- A multiple of a last place needs no rounding. -/
theorem roundDiv_mul_left {d m b : Nat} (hd : 0 < d) (hb : 0 < b) (hdvd : b ∣ m) :
    roundDiv (d * m) (d * b) = m / b := by
  have hmod : d * m % (d * b) = 0 := Nat.mod_eq_zero_of_dvd (Nat.mul_dvd_mul_left d hdvd)
  have hpos : 0 < d * b := Nat.mul_pos hd hb
  rw [roundDiv, hmod, Nat.mul_div_mul_left _ _ hd, if_neg (by omega)]

/-- Rounding keeps a rational that is a magnitude `m` of the format: a multiple of its last place, below overflow. -/
theorem rne_exact {n d m : Nat} (hd : 0 < d) (hm : n * f.unit = d * m) (hdvd : 2 ^ f.shift m ∣ m)
    (hfin : f.shift m + 2 ≤ f.expInf) : f.rne n d < f.infBits ∧ f.mag (f.rne n d) = m := by
  have ht := div_shift_lt (f := f) m
  have hlt : f.shift m * 2 ^ f.frac + m / 2 ^ f.shift m < f.infBits :=
    calc f.shift m * 2 ^ f.frac + m / 2 ^ f.shift m
        < f.shift m * 2 ^ f.frac + 2 ^ (f.frac + 1) := Nat.add_lt_add_left ht _
      _ = (f.shift m + 2) * 2 ^ f.frac := by ring
      _ ≤ f.infBits := Nat.mul_le_mul_right _ hfin
  have hrne : f.rne n d = f.shift m * 2 ^ f.frac + m / 2 ^ f.shift m := by
    rw [Ieee.rne, hm, Nat.mul_div_cancel_left _ hd, roundDiv_mul_left hd (Nat.two_pow_pos _) hdvd,
      Nat.min_eq_left hlt.le]
  rw [hrne, mag_of_place ht (shift_eq_zero_or_le_div m), Nat.div_mul_cancel hdvd]
  exact ⟨hlt, rfl⟩

/-- A magnitude is a significand times a power of 2 (R11). -/
theorem mag_eq_mul_two_pow (bits : Nat) :
    ∃ a e, f.mag bits = a * 2 ^ e ∧ a < 2 ^ (f.frac + 1) ∧ e ≤ bits / 2 ^ f.frac := by
  have hmod : bits % 2 ^ f.frac < 2 ^ f.frac := Nat.mod_lt _ (Nat.two_pow_pos _)
  rw [Ieee.mag, Nat.pow_succ]
  split
  · exact ⟨bits % 2 ^ f.frac, 0, by simp, by omega, Nat.zero_le _⟩
  · exact ⟨_, _, rfl, by omega, Nat.sub_le _ _⟩

/-- The last place of a product of a short significand and a power of 2. -/
theorem shift_mul_two_pow_le {a c : Nat} (ha : a < 2 ^ (c + 1)) (e : Nat) : f.shift (a * 2 ^ e) ≤ c + e - f.frac := by
  refine Nat.sub_le_sub_right (Nat.le_of_lt_succ ?_) _
  rcases Nat.eq_zero_or_pos a with rfl | hpos
  · simp
  · rw [Nat.log2_lt (Nat.mul_ne_zero hpos.ne' (Nat.two_pow_pos e).ne')]
    calc a * 2 ^ e < 2 ^ (c + 1) * 2 ^ e := Nat.mul_lt_mul_of_pos_right ha (Nat.two_pow_pos e)
      _ = 2 ^ (c + e).succ := by rw [← Nat.pow_add]; congr 1; omega

/-- A format with a finer unit, at least as many fraction bits and room for the exponent holds the value exactly. -/
theorem rne_mag_exact {g : Ieee} {c bits : Nat} (hpos : 0 < f.unit) (hunit : g.unit = f.unit * 2 ^ c)
    (hfrac : f.frac ≤ g.frac) (hexp : bits / 2 ^ f.frac + c + 2 ≤ g.expInf) :
    g.rne (f.mag bits) f.unit < g.infBits ∧ g.mag (g.rne (f.mag bits) f.unit) * f.unit = f.mag bits * g.unit := by
  obtain ⟨a, e, hmag, ha, he⟩ := mag_eq_mul_two_pow (f := f) bits
  have hscale : f.mag bits * g.unit = f.unit * (a * 2 ^ (e + c)) := by
    rw [hmag, hunit]
    ring
  have hshift : g.shift (a * 2 ^ (e + c)) ≤ e + c := (shift_mul_two_pow_le ha _).trans (by omega)
  obtain ⟨hlt, hexact⟩ := rne_exact hpos hscale ((Nat.pow_dvd_pow 2 hshift).trans (Nat.dvd_mul_left _ a)) (by omega)
  exact ⟨hlt, by rw [hexact, hscale, Nat.mul_comm]⟩

end Exact

/-- Binary64 counts in units `2 ^ 925` times as fine as binary32 (R11). -/
theorem binary64_unit_eq_mul : binary64.unit = binary32.unit * 2 ^ 925 := by
  rw [binary64_unit, binary32, ← Nat.pow_add]

/-- Every finite binary32 value is a binary64 value (R141). -/
theorem binary64_rne_of_binary32 {bits : Nat} (h : bits < 0x7F800000) :
    binary64.rne (binary32.mag bits) binary32.unit < 0x7FF0000000000000 ∧
      binary64.mag (binary64.rne (binary32.mag bits) binary32.unit) * binary32.unit =
        binary32.mag bits * binary64.unit := by
  have hexp : bits / 2 ^ 23 + 925 + 2 ≤ 0x7FF := by omega
  exact rne_mag_exact (f := binary32) (g := binary64) (Nat.two_pow_pos 149) binary64_unit_eq_mul (by decide) hexp

/-! ## Widening -/

section Widen

variable {q : Word}

/-- The exponent field is all ones from infinity up (R141). -/
theorem expField_eq_iff (q : Word) : q.extractLsb' 23 8 = 0xFF ↔ 0x7F800000 ≤ q.toNat % 2 ^ 31 := by
  rw [← BitVec.toNat_inj, BitVec.extractLsb'_toNat, Nat.shiftRight_eq_div_pow]
  change _ = 255 ↔ _
  omega

/-- The exponent field is all ones and the fraction is not 0 past infinity: a NaN (R141). -/
theorem nanFields_iff (q : Word) :
    (q.extractLsb' 23 8 = 0xFF ∧ q.extractLsb' 0 23 ≠ 0) ↔ 0x7F800000 < q.toNat % 2 ^ 31 := by
  rw [expField_eq_iff, ne_eq, ← BitVec.toNat_inj, BitVec.extractLsb'_toNat, Nat.shiftRight_zero]
  change _ ∧ ¬ _ = 0 ↔ _
  omega

theorem toNat_sign32 (q : Word) : (q.getLsbD 31).toNat = q.toNat / 2 ^ 31 := toNat_getLsbD_top q rfl

/-- A NaN widens to the quiet NaN with its sign and fraction (R141). -/
theorem widen_of_nan (h : 0x7F800000 < q.toNat % 2 ^ 31) : widen q =
    BitVec.ofNat 64 (q.toNat / 2 ^ 31 * 2 ^ 63 + (0x7FF8000000000000 ||| q.toNat % 2 ^ 23 * 2 ^ 29)) := by
  have hfrac : ((q.extractLsb' 0 23).setWidth 64 <<< 29).toNat = q.toNat % 2 ^ 23 * 2 ^ 29 := by
    rw [BitVec.toNat_shiftLeft, BitVec.toNat_setWidth_of_le (by decide), BitVec.extractLsb'_toNat, Nat.shiftRight_zero,
      Nat.shiftLeft_eq, Nat.mod_eq_of_lt (by omega)]
  have hquiet : ((0x7FF : DWord) <<< 52 ||| ((1 : DWord) <<< 51 ||| (q.extractLsb' 0 23).setWidth 64 <<< 29)).toNat =
      0x7FF8000000000000 ||| q.toNat % 2 ^ 23 * 2 ^ 29 := by
    rw [← BitVec.or_assoc, BitVec.toNat_or, hfrac]
    rfl
  have hbound : 0x7FF8000000000000 ||| q.toNat % 2 ^ 23 * 2 ^ 29 < 2 ^ 63 := Nat.or_lt_two_pow (by decide) (by omega)
  rw [widen, if_pos ((nanFields_iff q).2 h), BitVec.or_assoc, BitVec.or_assoc, sign_or _ (by rwa [hquiet]) rfl, hquiet,
    toNat_sign32]

/-- An infinity widens to the infinity of its sign (R141). -/
theorem widen_of_inf (h : q.toNat % 2 ^ 31 = 0x7F800000) :
    widen q = BitVec.ofNat 64 (q.toNat / 2 ^ 31 * 2 ^ 63 + 0x7FF0000000000000) := by
  rw [widen, if_neg (fun hnan => ((nanFields_iff q).1 hnan).ne' h), if_pos ((expField_eq_iff q).2 h.ge),
    sign_or _ (by decide) rfl, toNat_sign32]
  rfl

/-- A finite value widens to its binary64 pattern with its sign (R141). -/
theorem widen_of_finite (h : q.toNat % 2 ^ 31 < 0x7F800000) : widen q =
    BitVec.ofNat 64 (q.toNat / 2 ^ 31 * 2 ^ 63 + binary64.rne (binary32.mag (q.toNat % 2 ^ 31)) binary32.unit) := by
  rw [widen, if_neg (fun hnan => h.not_gt ((nanFields_iff q).1 hnan)),
    if_neg (fun hexp => h.not_ge ((expField_eq_iff q).1 hexp)), pack64, ite_eq_toNat_mul, toNat_sign32, Nat.add_comm]

end Widen

/-! ## DEC_FLOAT -/

/-- The wire bytes of a binary32 pattern give RES the widened pattern (R132). -/
theorem givesResult_of_widen {s : State} {bo : ByteOrder} {u : Nat} {v : DWord} (hlen : s.dlen.val = 4)
    (hu : u < 2 ^ 32) (hbytes : s.bytesAt 0x300 4 = wireWord bo u) (hwiden : widen (BitVec.ofNat 32 u) = v) :
    GivesResult (.decFloat .single bo) s v true := by
  have hread : unbe (order bo s.data) = u := by rw [data_eq_bytesAt hlen, hbytes, unbe_order_wireWord bo hu]
  refine givesResult_of_ends (exec_decFloat .single bo s) ?_
  exact (needLength_of_eq (n := floatBytes .single) hlen _).trans (by rw [hread, hwiden])

/-- The wire bytes of a binary64 pattern give RES the pattern (R132). -/
theorem givesResult_of_double {s : State} {bo : ByteOrder} {u : Nat} (hlen : s.dlen.val = 8) (hu : u < 2 ^ 64)
    (hbytes : s.bytesAt 0x300 8 = wireDWord bo u) : GivesResult (.decFloat .double bo) s (BitVec.ofNat 64 u) true := by
  have hread : unbe (order bo s.data) = u := by rw [data_eq_bytesAt hlen, hbytes, unbe_order_wireDWord bo hu]
  refine givesResult_of_ends (exec_decFloat .double bo s) ?_
  exact (needLength_of_eq (n := floatBytes .double) hlen _).trans (by rw [hread])

/-- Settles O33: the length check, then the pattern as it is, or the three cases of R141 for binary32. -/
theorem decFloatWidensExactly : Obligations.DecFloatWidensExactly := by
  unfold Obligations.DecFloatWidensExactly
  refine ⟨toNat_packWord_float 0x26, fun w bo s h => ?_, fun bo s u => givesResult_of_double,
    fun bo s u hlen hu hbytes => ?_⟩
  · cases w with
    | single => exact fails_of_length (exec_decFloat .single bo s) rfl h
    | double => exact fails_of_length (exec_decFloat .double bo s) rfl h
  · have hq : (BitVec.ofNat 32 u).toNat = u := by rw [BitVec.toNat_ofNat, Nat.mod_eq_of_lt hu]
    refine ⟨fun h => ?_, fun h => ?_, fun h => ?_⟩
    · exact givesResult_of_widen hlen hu hbytes (by rw [widen_of_nan (by rwa [hq]), hq])
    · exact givesResult_of_widen hlen hu hbytes (by rw [widen_of_inf (by rwa [hq]), hq])
    · obtain ⟨hlt, hexact⟩ := binary64_rne_of_binary32 h
      exact ⟨_, hlt, hexact, givesResult_of_widen hlen hu hbytes (by rw [widen_of_finite (by rwa [hq]), hq])⟩

end Sys2Proof
end

section
/-! PROOFS. The register lists and the word swap (41_numeric_codec.md R124, R133, R134, R138). -/

namespace Sys2Proof

open Sys2Proof.Machine Sys2Proof.Safety

theorem exec_encRegList (s : State) : exec .encRegList s = s.ends (encRegList s) := rfl

theorem exec_decRegList (s : State) : exec .decRegList s = s.ends (decRegList s) := rfl

theorem exec_wordSwap (s : State) : exec .wordSwap s = s.ends (wordSwap s) := rfl

/-! ## The check of the entries -/

theorem getElem?_varrList (s : State) {n k : Nat} (h : k < n) : (s.varrList n)[k]? = some (s.varr k) := by
  simp [State.varrList, h]

/-- The entries pass when none is above the bound. -/
theorem needEntries_of_le {bound n : Nat} {s : State} (h : ∀ k, k < n → (s.varr k).toNat ≤ bound) (rest : Ending) :
    needEntries bound (s.varrList n) rest = rest := by
  have hnone : firstAbove bound 0 (s.varrList n) = none := firstAbove_eq_none.2 fun v hv => by
    simp only [State.varrList, List.mem_map, List.mem_range] at hv
    obtain ⟨k, hk, rfl⟩ := hv
    exact h k hk
  rw [needEntries, hnone]

/-- The first entry above the bound is the one found. -/
theorem firstAbove_varrList {bound n k : Nat} {s : State} (hk : k < n) (habove : bound < (s.varr k).toNat)
    (hbefore : ∀ j, j < k → (s.varr j).toNat ≤ bound) : firstAbove bound 0 (s.varrList n) = some (k, s.varr k) := by
  cases hfirst : firstAbove bound 0 (s.varrList n) with
  | none =>
    have hle := firstAbove_eq_none.1 hfirst _ (List.mem_of_getElem? (getElem?_varrList s hk))
    omega
  | some found =>
    obtain ⟨i, v⟩ := found
    obtain ⟨j, rfl, hj, hv, hall⟩ := firstAbove_eq_some hfirst
    have hjn : j < n := by simpa using (List.getElem?_eq_some_iff.1 hj).1
    obtain rfl : s.varr j = v := Option.some.inj ((getElem?_varrList s hjn).symm.trans hj)
    have hjk : ¬ j < k := fun hlt => Nat.not_le.2 hv (hbefore j hlt)
    have hkj : ¬ k < j := fun hlt => Nat.not_le.2 habove (hall k hlt _ (getElem?_varrList s hk))
    obtain rfl : j = k := by omega
    rw [Nat.zero_add]

/-- The first entry above the bound fails the command with its index and value (R133, R135). -/
theorem fails_of_entry {i : Instr} {s : State} {bound n k : Nat} {rest e : Ending} (hexec : exec i s = s.ends e)
    (he : e = needEntries bound (s.varrList n) rest) (hk : k < n) (habove : bound < (s.varr k).toNat)
    (hbefore : ∀ j, j < k → (s.varr j).toNat ≤ bound) : Fails i s 3 0x11 (BitVec.ofNat 32 k) (s.varr k) := by
  have hfail : e = .fail { code := .range, field := .listElement, exp := k, act := (s.varr k).toNat } := by
    rw [he, needEntries, firstAbove_varrList hk habove hbefore]
  have h := fails_of_ends hexec hfail
  rwa [BitVec.ofInt_natCast, BitVec.ofInt_natCast, BitVec.ofNat_toNat, BitVec.setWidth_eq] at h

/-! ## ENC_REGLIST -/

/-- The two bytes of an entry's low 16 bits (R7). -/
theorem be2_setWidth (v : Word) : be2 (v.setWidth 16) = [BitVec.ofNat 8 (v.toNat / 256), BitVec.ofNat 8 v.toNat] := by
  have hhigh : (v.toNat : Int) / 256 = (v.toNat / 256 : Nat) := by simp
  have hbytes := be2_ofInt v.toNat
  rwa [hhigh, BitVec.ofInt_natCast, BitVec.ofInt_natCast, BitVec.ofInt_natCast, BitVec.ofNat_toNat] at hbytes

/-- Past the list count and the capacity ENC_REGLIST checks the entries (R133). -/
theorem encRegList_of_count {s : State} (hcount : s.vcnt.val = s.cnt.toNat) (hcap : s.cnt.toNat ≤ 128) : encRegList s =
    needEntries 0xFFFF (s.varrList s.cnt.toNat)
      (setD ((s.varrList s.cnt.toNat).flatMap fun v => be2 (v.setWidth 16)) s fun t => .complete t false) := by
  rw [encRegList, failIf_neg (by simp [hcount]), failIf_neg (by simp only [Config.bufSize]; omega)]

/-- Settles O37: the list count, the capacity, the first bad entry, then the bytes of every entry. -/
theorem encRegListConcatenatesWords : Obligations.EncRegListConcatenatesWords := by
  unfold Obligations.EncRegListConcatenatesWords
  refine ⟨rfl, fun s => ?_⟩
  refine ⟨fun hcount => ?_, fun hcount hcap => ?_,
    fun hcount hcap k => fails_of_entry (exec_encRegList s) (encRegList_of_count hcount hcap),
    fun hcount hcap hle => ?_⟩
  · rw [← BitVec.ofInt_natCast, ← BitVec.ofInt_natCast]
    exact fails_of_ends (exec_encRegList s) (failIf_pos hcount _ _)
  · rw [← BitVec.ofInt_natCast]
    refine fails_of_ends (f := { code := .overflow, field := .capacity, exp := 256, act := (2 * s.cnt.toNat : Nat) })
      (exec_encRegList s) ?_
    rw [encRegList, failIf_neg (by simp [hcount]), failIf_pos (by simp only [Config.bufSize]; omega)]
  · simp only [← be2_setWidth]
    refine fillsData_of_ends (exec_encRegList s) ?_ (by simp; omega)
    rw [encRegList_of_count hcount hcap, needEntries_of_le hle, State.varrList, List.flatMap_map]

/-! ## DEC_REGLIST -/

/-- The big-endian words of stored bytes (R134). -/
theorem regsOf_bytesAt (s : State) (base n : Nat) : regsOf (s.bytesAt base (2 * n)) =
    (List.range n).map fun k =>
      BitVec.ofNat 32 (256 * (s.byteAt (base + 2 * k)).toNat + (s.byteAt (base + 2 * k + 1)).toNat) := by
  induction n generalizing base with
  | zero => rfl
  | succ n ih =>
    have hpair (b1 b0 : Byte) : unbe [b1, b0] = 256 * b1.toNat + b0.toNat := by simp [unbe]
    have hnext (k : Nat) : base + 1 + 1 + 2 * k = base + 2 * (k + 1) := by omega
    rw [Nat.mul_succ, State.bytesAt_succ, State.bytesAt_succ, regsOf, hpair, ih, List.range_succ_eq_map, List.map_cons,
      List.map_map]
    simp only [Function.comp_def, hnext, Nat.mul_zero, Nat.add_zero, Nat.succ_eq_add_one]

/-- Settles O38: the length check, then the words of DBUF. -/
theorem decRegListReadsBigEndianWords : Obligations.DecRegListReadsBigEndianWords := by
  unfold Obligations.DecRegListReadsBigEndianWords
  refine ⟨rfl, fun s => ⟨fails_of_length (exec_decRegList s) rfl, fun hlen => ?_⟩⟩
  rw [← regsOf_bytesAt]
  refine fillsList_of_ends (exec_decRegList s) ?_ (by rw [regsOf_bytesAt]; simp; omega)
  rw [decRegList, needLength_of_eq hlen, data_eq_bytesAt hlen]

/-! ## WORD_SWAP -/

/-- Stored bytes in two runs. -/
theorem bytesAt_add (s : State) (base m n : Nat) :
    s.bytesAt base (m + n) = s.bytesAt base m ++ s.bytesAt (base + m) n := by
  simp [State.bytesAt, List.range_add, Nat.add_assoc, Function.comp_def]

/-- The halves of a list of two equal parts change places (R124). -/
theorem swapHalves_append {a b : List Byte} (h : a.length = b.length) : swapHalves (a ++ b) = b ++ a := by
  have hhalf : (a ++ b).length / 2 = a.length := by
    rw [List.length_append]
    omega
  rw [swapHalves, hhalf, List.drop_left, List.take_left]

/-- WORD_SWAP of an even length fills DBUF with the swapped data (R138). -/
theorem fillsData_wordSwap {s : State} (h : s.dlen.val % 2 = 0) : FillsData .wordSwap s (swapHalves s.data) :=
  fillsData_of_ends (exec_wordSwap s) (failIf_neg (by omega) _ _) (by simp; omega)

/-- A stored list reads back. -/
theorem bytesAt_of_storedOnly {s t : State} {base : Nat} {bs : List Byte} (h : StoredOnly s t base bs) :
    t.bytesAt base bs.length = bs := by
  apply List.ext_getElem (by simp)
  intro k _ hk
  rw [State.getElem_bytesAt, h, if_pos (Nat.le_add_right _ _), Nat.add_sub_cancel_left, List.getElem?_eq_getElem hk,
    Option.getD_some]

/-- Storing the old bytes over the stored ones restores every byte. -/
theorem byteAt_of_storedOnly_restored {s t u : State} {base n : Nat} {bs : List Byte} (hst : StoredOnly s t base bs)
    (hn : bs.length = n) (htu : StoredOnly t u base (s.bytesAt base n)) (a : Nat) : u.byteAt a = s.byteAt a := by
  rw [htu a, hst a, State.getElem?_bytesAt]
  split
  · next hbase =>
    split
    · rw [Option.getD_some, Nat.add_sub_cancel' hbase]
    · rw [List.getElem?_eq_none (by omega)]
      rfl
  · rfl

/-- Settles O43: DBUF is swapped, and swapping the swapped data restores it (R124). -/
theorem wordSwapExchangesTheHalves : Obligations.WordSwapExchangesTheHalves := by
  unfold Obligations.WordSwapExchangesTheHalves
  refine ⟨rfl, fun s => ⟨fun hodd => ?_, fun heven => ?_, fun heven => ?_⟩⟩
  · rw [← BitVec.ofInt_natCast]
    exact fails_of_ends (exec_wordSwap s) (failIf_pos (by omega) _ _)
  · have hlen : s.dlen.val = s.dlen.val / 2 + s.dlen.val / 2 := by omega
    rw [← swapHalves_append (by simp), ← bytesAt_add, ← data_eq_bytesAt hlen]
    exact fillsData_wordSwap heven
  · obtain ⟨t, hexec, hstore, hlen, -⟩ := fillsData_wordSwap heven
    have hdata : t.data = swapHalves s.data := by rw [data_eq_bytesAt hlen, bytesAt_of_storedOnly hstore]
    obtain ⟨u, hexec', hstore', -, -⟩ := fillsData_wordSwap (s := t) (by simpa [hlen] using heven)
    rw [hdata, swapHalves_swapHalves (by simpa using heven)] at hstore'
    exact ⟨t, u, hexec, hexec', byteAt_of_storedOnly_restored hstore (by simp) hstore'⟩

end Sys2Proof
end

section
/-! PROOFS. Bit packing (41_numeric_codec.md R135, R136). -/

namespace Sys2Proof

open Sys2Proof.Machine Sys2Proof.Safety

theorem exec_encBits (s : State) : exec .encBits s = s.ends (encBits s) := rfl

theorem exec_decBits (s : State) : exec .decBits s = s.ends (decBits s) := rfl

/-! ## ENC_BITS -/

/-- Bit `k` of a packed byte is entry `k` of its list, and 0 past it (R135). -/
theorem testBit_packByte {l : List Nat} (h : ∀ b ∈ l, b ≤ 1) (k : Nat) :
    (packByte l).testBit k = decide (l[k]? = some 1) := by
  induction l generalizing k with
  | nil => simp [packByte]
  | cons b bs ih =>
    have hb : b ≤ 1 := h b List.mem_cons_self
    cases k with
    | zero =>
      simp only [packByte, Nat.testBit_zero, List.getElem?_cons_zero, Option.some.injEq, decide_eq_decide]
      omega
    | succ k =>
      have hhalf : (b + 2 * packByte bs) / 2 = packByte bs := by omega
      rw [packByte, Nat.testBit_succ, hhalf, ih (fun c hc => h c (List.mem_cons_of_mem b hc)), List.getElem?_cons_succ]

@[simp] theorem length_packBits (n : Nat) (l : List Nat) : (packBits n l).length = n := by
  induction n generalizing l with
  | zero => rfl
  | succ n ih => rw [packBits, List.length_cons, ih]

/-- Byte `j` packs the eight entries from `8 j` on (R135). -/
theorem getElem?_packBits {n j : Nat} (h : j < n) (l : List Nat) :
    (packBits n l)[j]? = some (BitVec.ofNat 8 (packByte ((l.drop (8 * j)).take 8))) := by
  induction n generalizing j l with
  | zero => omega
  | succ n ih =>
    cases j with
    | zero => rfl
    | succ j =>
      rw [packBits, List.getElem?_cons_succ, ih (by omega), List.drop_drop, Nat.mul_succ, Nat.add_comm 8]

/-- Bit `k` of byte `j` is entry `8 j + k` of the list, and 0 past it (R135). -/
theorem getLsbD_packBits {n j k : Nat} {l : List Nat} {b : Byte} (hl : ∀ b ∈ l, b ≤ 1)
    (hb : (packBits n l)[j]? = some b) (hk : k < 8) : b.getLsbD k = decide (l[8 * j + k]? = some 1) := by
  have hj : j < n := by simpa using (List.getElem?_eq_some_iff.1 hb).1
  obtain rfl := Option.some.inj ((getElem?_packBits hj l).symm.trans hb)
  have hbits : ∀ c ∈ (l.drop (8 * j)).take 8, c ≤ 1 := fun c hc => hl c (List.mem_of_mem_drop (List.mem_of_mem_take hc))
  rw [BitVec.getLsbD_ofNat, testBit_packByte hbits, List.getElem?_take_of_lt hk, List.getElem?_drop]
  simp [hk]

/-- An entry of the list is 1 exactly where the list has the bit. -/
theorem getElem?_varrBits_eq_one_iff (s : State) (n i : Nat) :
    ((s.varrList n).map BitVec.toNat)[i]? = some 1 ↔ i < n ∧ s.varr i = 1 := by
  have hone : (s.varr i).toNat = 1 ↔ s.varr i = 1 := BitVec.toNat_inj (y := 1)
  rcases Nat.lt_or_ge i n with h | h
  · rw [List.getElem?_map, getElem?_varrList s h, Option.map_some, Option.some.injEq, hone, and_iff_right h]
  · simp [State.varrList, Nat.not_lt.2 h]

/-- Settles O39: the first bad entry, then the packed list, bit by bit. -/
theorem encBitsPacksLowBitFirst : Obligations.EncBitsPacksLowBitFirst := by
  unfold Obligations.EncBitsPacksLowBitFirst
  refine ⟨rfl, fun s k => fails_of_entry (exec_encBits s) rfl, fun s hle => ?_⟩
  refine ⟨packBits (ceil8 s.vcnt.val) ((s.varrList s.vcnt.val).map BitVec.toNat), ?_, by simp [ceil8],
    fun j k b hb hk => ?_⟩
  · exact fillsData_of_ends (exec_encBits s) (needEntries_of_le hle _) (by simp [ceil8]; omega)
  · have hbits : ∀ b ∈ (s.varrList s.vcnt.val).map BitVec.toNat, b ≤ 1 := by simpa [State.varrList] using hle
    rw [getLsbD_packBits hbits hb hk, Bool.eq_iff_iff, decide_eq_true_iff, getElem?_varrBits_eq_one_iff,
      Bool.and_eq_true, decide_eq_true_iff, beq_iff_eq]

/-! ## DEC_BITS -/

/-- A bit as an entry of VARR. -/
theorem setWidth_ofBool (b : Bool) : (BitVec.ofBool b).setWidth 32 = if b then 1 else 0 := by
  cases b <;> rfl

/-- Settles O40: the length check, then the bits of DBUF. -/
theorem decBitsUnpacksLowBitFirst : Obligations.DecBitsUnpacksLowBitFirst := by
  unfold Obligations.DecBitsUnpacksLowBitFirst
  refine ⟨rfl, fun s => ⟨fails_of_length (exec_decBits s) rfl, fun hlen => ?_⟩⟩
  refine fillsList_of_ends (exec_decBits s) ?_ (by simp; omega)
  simp only [decBits, needLength_of_eq (n := ceil8 _) hlen, setWidth_ofBool, State.dbuf]

end Sys2Proof
end

section
/-! PROOFS. What every frame command's proof uses: its word (30_encoding.md R86), its ending as the outcome a statement
names (60_exceptions.md R253, R254), and the function codes with their limits (42_frame_codec.md R170, R171). -/

namespace Sys2Proof

open Sys2Proof.Machine Sys2Proof.Safety

/-! ## The word of a command with a function code -/

theorem toNat_packWord_functionCode (op : Byte) {fc : Nat} (hfc : fc < 256) :
    (packWord op { Fields.zero with imm := BitVec.ofNat 8 fc }).toNat = op.toNat + 2 ^ 16 * fc := by
  rw [toNat_packWord_imm, BitVec.toNat_ofNat, Nat.mod_eq_of_lt hfc]

/-! ## The ending of a command -/

/-- A failure whose EEXP and EACT are naturals leaves them as words (R254). -/
theorem fails_of_ends_natCast {i : Instr} {s : State} {e : Ending} {code : ErrCode} {field : ErrField} {exp act : Nat}
    {sxc : Byte} (hexec : exec i s = s.ends e)
    (he : e = .fail { code := code, field := field, exp := exp, act := act, sxc := sxc }) :
    Fails i s code.val field.val (BitVec.ofNat 32 exp) (BitVec.ofNat 32 act) sxc := by
  rw [← BitVec.ofInt_natCast, ← BitVec.ofInt_natCast]
  exact fails_of_ends hexec he

/-- A state whose memory is that of `s` after a store differs from `s` in the stored bytes only. -/
theorem storedOnly_of_mem_eq {s t : State} {base : Nat} {bs : List Byte} (hmem : t.mem = s.mem.write base bs)
    (hepoch : t.epoch = s.epoch) : StoredOnly s t base bs := fun a =>
  (State.byteAt_congr (s := s.store base bs) hmem hepoch a).trans (s.byteAt_store base bs a)

/-! ## Pairs of bytes -/

theorem unbe_pair (high low : Byte) : unbe [high, low] = 256 * high.toNat + low.toNat := by
  simp [unbe]

theorem toNat_append_bytes (high low : Byte) : (high ++ low : Half).toNat = 256 * high.toNat + low.toNat := by
  rw [BitVec.toNat_append, ← Nat.shiftLeft_add_eq_or_of_lt low.isLt, Nat.shiftLeft_eq, Nat.mul_comm]

/-- Two stored bytes read as a big-endian number (R7). -/
theorem unbe_bytesAt_two (s : State) (base : Nat) :
    unbe (s.bytesAt base 2) = 256 * (s.byteAt base).toNat + (s.byteAt (base + 1)).toNat := unbe_pair _ _

/-! ## The function codes -/

theorem isReadBits_iff (fc : Nat) : isReadBits fc = true ↔ fc = 1 ∨ fc = 2 := by
  simp [isReadBits]

theorem isRead_iff (fc : Nat) : isRead fc = true ↔ fc ∈ [1, 2, 3, 4] := by
  simp [isRead, isReadBits, isReadRegs, or_assoc]

theorem isWriteSingle_iff (fc : Nat) : isWriteSingle fc = true ↔ fc ∈ [5, 6] := by
  simp [isWriteSingle]

theorem isWrite_iff (fc : Nat) : isWrite fc = true ↔ fc ∈ [5, 6, 15, 16] := by
  simp [isWrite, isWriteSingle, isWriteMultiple, or_assoc]

theorem isSupported_iff (fc : Nat) : isSupported fc = true ↔ fc ∈ [1, 2, 3, 4, 5, 6, 15, 16] := by
  rw [isSupported, Bool.or_eq_true, isRead_iff, isWrite_iff, ← List.mem_append, List.cons_append]
  rfl

/-- The function-code check fails every frame command in the same way (R170). -/
theorem fails_of_functionCode {i : Instr} {s : State} {supported : Bool} {fc : Nat} {rest e : Ending}
    (hexec : exec i s = s.ends e) (he : e = needFc supported fc rest) (h : ¬ supported = true) :
    Fails i s 13 0x52 0 (BitVec.ofNat 32 fc) :=
  fails_of_ends_natCast (exp := 0) hexec (he.trans (needFc_of_false (Bool.eq_false_of_not_eq_true h) _ _))

/-! ## The counts and lengths of requests -/

section CountCheck

variable {i : Instr} {s : State} {most : Nat} {rest e : Ending}

/-- A count of zero fails with the least count (R171). -/
theorem fails_of_count_zero (hexec : exec i s = s.ends e) (he : e = needCount most s rest) (h : s.cnt.toNat < 1) :
    Fails i s 2 0x01 1 (BitVec.ofNat 32 s.cnt.toNat) :=
  fails_of_ends_natCast (exp := 1) hexec (he.trans (failIf_pos h _ _))

/-- A count above the limit fails with the limit (R171). -/
theorem fails_of_count_above (hexec : exec i s = s.ends e) (he : e = needCount most s rest) (h : most < s.cnt.toNat) :
    Fails i s 2 0x01 (BitVec.ofNat 32 most) (BitVec.ofNat 32 s.cnt.toNat) := by
  refine fails_of_ends_natCast (code := .validation) (field := .count) hexec (he.trans ?_)
  rw [needCount, failIf_neg (by simp only [Config.minCount]; omega), failIf_pos h]

end CountCheck

theorem maxReadCount_eq (fc : Nat) : maxReadCount fc = if fc = 1 ∨ fc = 2 then 2000 else 125 := by
  simp only [maxReadCount, isReadBits_iff]

theorem maxWriteCount_eq (fc : Nat) : maxWriteCount fc = if fc = 15 then 1968 else 123 := rfl

/-- A read response carries bits for functions 1 and 2 and registers for 3 and 4 (R170). -/
theorem dataBytes_of_read {fc : Nat} (h : fc ∈ [1, 2, 3, 4]) (n : Nat) :
    dataBytes fc n = if fc = 1 ∨ fc = 2 then (n + 7) / 8 else 2 * n := by
  have hne : fc ≠ 15 := by
    rintro rfl
    exact absurd h (by decide)
  simp only [dataBytes, Bool.or_eq_true, isReadBits_iff, beq_iff_eq, hne, or_false, ceil8]

/-- A multiple write carries bits for function 15 and registers for 16 (R170). -/
theorem dataBytes_of_writeMultiple {fc : Nat} (h : fc ∈ [15, 16]) (n : Nat) :
    dataBytes fc n = if fc = 15 then (n + 7) / 8 else 2 * n := by
  have hne : ¬ (fc = 1 ∨ fc = 2) := by
    rintro (rfl | rfl) <;> exact absurd h (by decide)
  simp only [dataBytes, Bool.or_eq_true, isReadBits_iff, beq_iff_eq, hne, false_or, ceil8]

end Sys2Proof
end

section
/-! PROOFS. The request builders (42_frame_codec.md R172 to R175). -/

namespace Sys2Proof

open Sys2Proof.Machine Sys2Proof.Safety

theorem exec_payloadRead (fc : Nat) (s : State) : exec (.payloadRead fc) s = s.ends (payloadRead fc s) := rfl

theorem exec_payloadWrite (fc : Nat) (s : State) : exec (.payloadWrite fc) s = s.ends (payloadWrite fc s) := rfl

theorem exec_buildReq (fc : Nat) (s : State) : exec (.buildReq fc) s = s.ends (buildReq fc s) := rfl

/-! ## PAYLOAD_READ -/

/-- Past the function-code check PAYLOAD_READ checks the count (R172). -/
theorem payloadRead_of_read {fc : Nat} (h : fc ∈ [1, 2, 3, 4]) (s : State) : payloadRead fc s =
    needCount (maxReadCount fc) s (setD (be2 s.raddr ++ be2 s.cnt) s fun t => .complete t false) :=
  needFc_of_true ((isRead_iff fc).2 h) _ _

/-- Settles O44: the function code, the count, then address and count big-endian. -/
theorem payloadReadBuildsTheRequest : Obligations.PayloadReadBuildsTheRequest := by
  unfold Obligations.PayloadReadBuildsTheRequest
  refine ⟨fun fc hfc => toNat_packWord_functionCode 0x30 hfc, fun fc s => ?_⟩
  simp only [← maxReadCount_eq]
  refine ⟨fun hfc => fails_of_functionCode (exec_payloadRead fc s) rfl (mt (isRead_iff fc).1 hfc),
    fun hfc => fails_of_count_zero (exec_payloadRead fc s) (payloadRead_of_read hfc s),
    fun hfc => fails_of_count_above (exec_payloadRead fc s) (payloadRead_of_read hfc s), fun hfc hmin hmax => ?_⟩
  refine fillsData_of_ends (l := be2 s.raddr ++ be2 s.cnt) (exec_payloadRead fc s) ?_ (by simp)
  rw [payloadRead_of_read hfc, needCount_of_mem hmin hmax]

/-! ## PAYLOAD_WRITE -/

/-- Past the function-code check a single write checks the length (R173). -/
theorem payloadWrite_of_single {fc : Nat} (h : fc ∈ [5, 6]) (s : State) : payloadWrite fc s =
    needLength 2 s
      (setD (be2 s.raddr ++ s.data) s fun t => .complete { t with wval := BitVec.ofNat 16 (unbe s.data) } false) := by
  have hsingle := (isWriteSingle_iff fc).2 h
  rw [payloadWrite, needFc_of_true (by rw [isWrite, hsingle, Bool.true_or]), if_pos hsingle]

/-- Past the function-code check a multiple write checks the count (R173). -/
theorem payloadWrite_of_multiple {fc : Nat} (h : fc ∈ [15, 16]) (s : State) : payloadWrite fc s =
    needCount (maxWriteCount fc) s
      (needLength (dataBytes fc s.cnt.toNat) s
        (setD (be2 s.raddr ++ be2 s.cnt ++ [BitVec.ofNat 8 (dataBytes fc s.cnt.toNat)] ++ s.data) s
          fun t => .complete t false)) := by
  have hwrite : fc ∈ [5, 6, 15, 16] := List.mem_append_right [5, 6] h
  have hnot : fc ∉ [5, 6] := fun h' => List.disjoint_of_nodup_append (l₁ := [5, 6]) (by decide) h' h
  rw [payloadWrite, needFc_of_true ((isWrite_iff fc).2 hwrite), if_neg (mt (isWriteSingle_iff fc).1 hnot)]

/-- Two bytes read as a big-endian number, in a 16-bit register (R7). -/
theorem ofNat_unbe_pair (high low : Byte) : BitVec.ofNat 16 (unbe [high, low]) = high ++ low := by
  rw [unbe_pair, ← toNat_append_bytes, BitVec.ofNat_toNat, BitVec.setWidth_eq]

/-- A single write of two data bytes puts the address before them and remembers them in WVAL (R173). -/
theorem exec_payloadWrite_of_single {fc : Nat} {s : State} (hfc : fc ∈ [5, 6]) (hlen : s.dlen.val = 2) :
    exec (.payloadWrite fc) s = s.ends (.complete { s.putData (be2 s.raddr ++ [s.byteAt 0x300, s.byteAt 0x301]) with
      wval := s.byteAt 0x300 ++ s.byteAt 0x301 } false) := by
  have hdata : s.data = [s.byteAt 0x300, s.byteAt 0x301] := by rw [data_eq_bytesAt hlen]; rfl
  rw [exec_payloadWrite, payloadWrite_of_single hfc, needLength_of_eq hlen, hdata, ofNat_unbe_pair,
    setD_of_le (by simp)]

/-- The byte count of a multiple write within its count limit is at most 246 (R173). -/
theorem dataBytes_le_of_writeMultiple {fc n : Nat} (hfc : fc ∈ [15, 16]) (hmax : n ≤ maxWriteCount fc) :
    dataBytes fc n ≤ 246 := by
  rw [maxWriteCount_eq] at hmax
  rw [dataBytes_of_writeMultiple hfc]
  by_cases h15 : fc = 15
  · rw [if_pos h15] at hmax ⊢
    omega
  · rw [if_neg h15] at hmax ⊢
    omega

/-- Settles O45: the function code, the count where there is one, the length, then the write payload. -/
theorem payloadWriteBuildsTheRequest : Obligations.PayloadWriteBuildsTheRequest := by
  unfold Obligations.PayloadWriteBuildsTheRequest
  refine ⟨fun fc hfc => toNat_packWord_functionCode 0x31 hfc,
    fun fc s hfc => fails_of_functionCode (exec_payloadWrite fc s) rfl (mt (isWrite_iff fc).1 hfc),
    fun fc s hfc => ⟨fails_of_length (exec_payloadWrite fc s) (payloadWrite_of_single hfc s), fun hlen => ?_⟩,
    fun fc s hfc => ?_⟩
  · exact ⟨_, exec_payloadWrite_of_single hfc hlen, storedOnly_of_mem_eq rfl rfl, rfl⟩
  · simp only [← dataBytes_of_writeMultiple hfc, ← maxWriteCount_eq]
    refine ⟨fails_of_count_zero (exec_payloadWrite fc s) (payloadWrite_of_multiple hfc s),
      fails_of_count_above (exec_payloadWrite fc s) (payloadWrite_of_multiple hfc s), fun hmin hmax => ?_,
      fun hmin hmax hlen => ?_⟩
    · exact fails_of_length (exec_payloadWrite fc s)
        ((payloadWrite_of_multiple hfc s).trans (needCount_of_mem hmin hmax _))
    · have hbytes := dataBytes_le_of_writeMultiple hfc hmax
      refine fillsData_of_ends (exec_payloadWrite fc s) ?_ (by simp; omega)
      rw [payloadWrite_of_multiple hfc, needCount_of_mem hmin hmax, needLength_of_eq hlen, data_eq_bytesAt hlen]
      rfl

/-! ## BUILD_REQ -/

/-- The CRC of R101 reads the table only, so it is the CRC over the generation procedure. -/
theorem crc16_eq_specCrc (l : List Byte) : crc16 l = specCrc l := by
  have hstep : crcStep = fun (c : Half) (b : Byte) => (c >>> 8) ^^^ crcGenerated (c.setWidth 8 ^^^ b) :=
    funext₂ crcStep_eq_generated
  rw [crc16, hstep, specCrc]

/-- Past the function-code check BUILD_REQ checks the capacity (R175). -/
theorem buildReq_of_supported {fc : Nat} (h : fc ∈ [1, 2, 3, 4, 5, 6, 15, 16]) (s : State) : buildReq fc s =
    failIf (256 < s.dlen.val + 4) { code := .overflow, field := .capacity, exp := 256, act := (s.dlen.val + 4 : Nat) }
      (.complete (s.putFrame (requestBody fc s ++ crcTrailer (crc16 (requestBody fc s)))) false) :=
  needFc_of_true ((isSupported_iff fc).2 h) _ _

/-- A payload that leaves room for the address, the function code and the trailer is sent (R175). -/
theorem exec_buildReq_of_fits {fc : Nat} {s : State} (hfc : fc ∈ [1, 2, 3, 4, 5, 6, 15, 16])
    (hlen : s.dlen.val ≤ 252) : exec (.buildReq fc) s =
      s.ends (.complete (s.putFrame (requestBody fc s ++ crcTrailer (crc16 (requestBody fc s)))) false) := by
  rw [exec_buildReq, buildReq_of_supported hfc, failIf_neg (by omega)]

/-- Settles O46: the function code, the capacity, then the frame with its trailer in TXB. -/
theorem buildReqAssemblesTheFrame : Obligations.BuildReqAssemblesTheFrame := by
  unfold Obligations.BuildReqAssemblesTheFrame
  refine ⟨fun fc hfc => toNat_packWord_functionCode 0x32 hfc, fun fc s => ?_⟩
  simp only [← crc16_eq_specCrc]
  refine ⟨fun hfc => fails_of_functionCode (exec_buildReq fc s) rfl (mt (isSupported_iff fc).1 hfc),
    fun hfc hlen => ?_, fun hfc hlen => ?_⟩
  · exact fails_of_ends_natCast (exp := 256) (exec_buildReq fc s)
      ((buildReq_of_supported hfc s).trans (failIf_pos (by omega) _ _))
  · have hframe : (requestBody fc s ++ crcTrailer (crc16 (requestBody fc s))).length = s.dlen.val + 4 := by
      simp [requestBody, crcTrailer]
    refine ⟨_, exec_buildReq_of_fits hfc hlen, storedOnly_of_mem_eq rfl rfl, ?_, rfl⟩
    exact (Nat.mod_eq_of_lt (by omega)).trans hframe

end Sys2Proof
end

section
/-! PROOFS. PARSE_RSP (42_frame_codec.md R180 to R188). Its last three checks are made of a frame whose length, CRC and
address have passed; what they do is said of such a frame once. -/

namespace Sys2Proof

open Sys2Proof.Machine Sys2Proof.Safety

theorem exec_parseRsp (fc : Nat) (s : State) : exec (.parseRsp fc) s = s.ends (parseRsp fc s) := rfl

/-! ## The CRCs of a frame -/

/-- The CRC a frame carries has its last byte high (R102, R182). -/
theorem receivedCrc_eq {s : State} (h : 4 ≤ s.rxlen.val) :
    receivedCrc s = s.byteAt (0x200 + s.rxlen.val - 1) ++ s.byteAt (0x200 + s.rxlen.val - 2) := by
  rw [Nat.add_sub_assoc (by omega), Nat.add_sub_assoc (by omega)]
  refine BitVec.eq_of_toNat_eq ?_
  have hlow := BitVec.toNat_setWidth_of_le (b := s.rxb (s.rxlen.val - 2)) (show 8 ≤ 16 by decide)
  rw [receivedCrc, toNat_or_shiftLeft _ (by rw [hlow]; omega) (by decide), hlow, toNat_append_bytes, Nat.add_comm]
  rfl

/-! ## The checks -/

section Checks

variable {fc : Nat} {s : State}

/-- A frame below the least length is reported with its length (R181). -/
theorem parseRsp_of_short (hok : isSupported fc = true) (hlen : s.rxlen.val < 4) : parseRsp fc s =
    .fail { code := .frameTooShort, field := .frameLength, exp := 4, act := s.rxlen.val } := by
  rw [parseRsp, needFc_of_true hok, failIf_pos hlen]

/-- A frame of another CRC than it carries is reported with both (R182). -/
theorem parseRsp_of_crc_ne (hok : isSupported fc = true) (hlen : 4 ≤ s.rxlen.val)
    (hcrc : computedCrc s ≠ receivedCrc s) : parseRsp fc s =
    .fail { code := .checksum, field := .crc, exp := (computedCrc s).toNat, act := (receivedCrc s).toNat } := by
  rw [parseRsp, needFc_of_true hok, failIf_neg (by omega), failIf_pos hcrc]

/-- A frame from another device is reported with both addresses (R183). -/
theorem parseRsp_of_addr_ne (hok : isSupported fc = true) (hlen : 4 ≤ s.rxlen.val)
    (hcrc : computedCrc s = receivedCrc s) (haddr : s.rxb 0 ≠ s.addr) : parseRsp fc s =
    .fail { code := .addressMismatch, field := .address, exp := s.addr.toNat, act := (s.rxb 0).toNat } := by
  rw [parseRsp, needFc_of_true hok, failIf_neg (by omega), failIf_neg (not_not_intro hcrc), failIf_pos haddr]

/-- A frame of the right length, CRC and address comes to the exception check (R180). -/
theorem parseRsp_of_addr_eq (hok : isSupported fc = true) (hlen : 4 ≤ s.rxlen.val)
    (hcrc : computedCrc s = receivedCrc s) (haddr : s.rxb 0 = s.addr) :
    parseRsp fc s = parseException s (parsePayload fc s) := by
  rw [parseRsp, needFc_of_true hok, failIf_neg (by omega), failIf_neg (not_not_intro hcrc),
    failIf_neg (not_not_intro haddr)]

theorem isKnownException_iff (code : Nat) : isKnownException code = true ↔ code ∈ [1, 2, 3, 4, 6, 7, 8, 10, 11] :=
  List.contains_iff_mem

/-- An exception code with a kind is reported as that of the device (R185). -/
theorem parseException_of_known (hflag : (s.rxb 1).getLsbD 7 = true)
    (hcode : (s.rxb 2).toNat ∈ [1, 2, 3, 4, 6, 7, 8, 10, 11]) (rest : Bool → Ending) : parseException s rest =
    .fail { code := .slaveException, field := .exceptionCode, exp := 0, act := (s.rxb 2).toNat, sxc := s.rxb 2 } := by
  rw [parseException, if_pos hflag, failIf_pos ((isKnownException_iff _).2 hcode)]

/-- An exception code without a kind, but for 5, is reported as unknown (R185). -/
theorem parseException_of_unknown (hflag : (s.rxb 1).getLsbD 7 = true)
    (hcode : (s.rxb 2).toNat ∉ [1, 2, 3, 4, 5, 6, 7, 8, 10, 11]) (rest : Bool → Ending) : parseException s rest =
    .fail { code := .unknownSlaveException, field := .exceptionCode, exp := 0, act := (s.rxb 2).toNat,
            sxc := s.rxb 2 } := by
  have hknown : ¬ isKnownException (s.rxb 2).toNat = true := by
    rw [isKnownException_iff]
    exact fun h => hcode ((show [1, 2, 3, 4, 6, 7, 8, 10, 11] ⊆ [1, 2, 3, 4, 5, 6, 7, 8, 10, 11] by decide) h)
  have hfive : (s.rxb 2).toNat ≠ 5 := fun h => hcode (by rw [h]; decide)
  rw [parseException, if_pos hflag, failIf_neg hknown, failIf_pos hfive]

/-- A frame without the exception flag, or with exception code 5, goes on, and the flag is its X5 (R184, R186). -/
theorem parseException_of_passes (h : (s.rxb 1).getLsbD 7 = true → s.rxb 2 = 5) (rest : Bool → Ending) :
    parseException s rest = rest ((s.rxb 1).getLsbD 7) := by
  rw [parseException]
  split
  · next hflag =>
    rw [h hflag, failIf_neg (by decide), failIf_neg (by decide), hflag]
  · next hflag => rw [Bool.eq_false_of_not_eq_true hflag]

/-- The bytes between header and trailer fit DBUF (R188). -/
theorem parsePayload_of_function_eq (hfc : (s.rxb 1).toNat % 128 = fc) (x5 : Bool) : parsePayload fc s x5 =
    .complete (s.putData (s.bytesAt 0x202 (s.rxlen.val - 4))) x5 := by
  have hlen := s.rxlen.isLt
  rw [parsePayload, failIf_neg (not_not_intro hfc), setD_of_le (by simp; omega)]

end Checks

/-- Settles O47: the function code, the length, the CRC, the address, the exception, the function, then the payload. -/
theorem parseRspChecksInOrderAndExtracts : Obligations.ParseRspChecksInOrderAndExtracts := by
  unfold Obligations.ParseRspChecksInOrderAndExtracts
  refine ⟨fun fc hfc => toNat_packWord_functionCode 0x33 hfc, fun fc s => ?_⟩
  simp only [← crc16_eq_specCrc, ← isSupported_iff, ← BitVec.ofNat_toNat]
  have hexec := exec_parseRsp fc s
  refine ⟨fails_of_functionCode hexec rfl,
    fun hok hlen => fails_of_ends_natCast (exp := 4) hexec (parseRsp_of_short hok hlen), fun hok hlen => ?_,
    fun hok hlen => ?_, fun hok hlen => ?_, fun hok hlen => ?_, fun hok hlen => ?_, fun hok hlen => ?_⟩
  all_goals rw [← receivedCrc_eq hlen]
  · intro hcrc
    exact fails_of_ends_natCast hexec (parseRsp_of_crc_ne hok hlen hcrc)
  · intro hcrc haddr
    exact fails_of_ends_natCast hexec (parseRsp_of_addr_ne hok hlen hcrc haddr)
  · intro hcrc haddr hflag hcode
    exact fails_of_ends_natCast (exp := 0) hexec
      ((parseRsp_of_addr_eq hok hlen hcrc haddr).trans (parseException_of_known hflag hcode _))
  · intro hcrc haddr hflag hcode
    exact fails_of_ends_natCast (exp := 0) hexec
      ((parseRsp_of_addr_eq hok hlen hcrc haddr).trans (parseException_of_unknown hflag hcode _))
  · intro hcrc haddr hpass hfunction
    exact fails_of_ends_natCast hexec
      ((parseRsp_of_addr_eq hok hlen hcrc haddr).trans
        ((parseException_of_passes hpass _).trans (failIf_pos hfunction _ _)))
  · intro hcrc haddr hpass hfunction
    have hparse := (parseRsp_of_addr_eq hok hlen hcrc haddr).trans (parseException_of_passes hpass _)
    rw [parsePayload_of_function_eq hfunction] at hparse
    rw [hparse] at hexec
    have hfits := Nat.mod_eq_of_lt (show (s.bytesAt 0x202 (s.rxlen.val - 4)).length < 257 by simp; omega)
    exact ⟨_, hexec, storedOnly_of_mem_eq rfl rfl, hfits.trans (s.length_bytesAt _ _), rfl⟩

end Sys2Proof
end

section
/-! PROOFS. VALIDATE_RSP (42_frame_codec.md R190 to R196). -/

namespace Sys2Proof

open Sys2Proof.Machine Sys2Proof.Safety

theorem exec_validateRsp (fc : Nat) (s : State) : exec (.validateRsp fc) s = s.ends (validateRsp fc s) := rfl

section Checks

variable {fc : Nat} {s : State}

theorem validateRsp_of_read (hfc : fc ∈ [1, 2, 3, 4]) (s : State) : validateRsp fc s = validateRead fc s := by
  have hread := (isRead_iff fc).2 hfc
  rw [validateRsp, needFc_of_true (by rw [isSupported, hread, Bool.true_or]), if_pos hread]

theorem validateRsp_of_write (hfc : fc ∈ [5, 6, 15, 16]) (s : State) : validateRsp fc s = validateWrite fc s := by
  have hnot : fc ∉ [1, 2, 3, 4] := fun h => List.disjoint_of_nodup_append (l₁ := [1, 2, 3, 4]) (by decide) h hfc
  rw [validateRsp, needFc_of_true (by rw [isSupported, (isWrite_iff fc).2 hfc, Bool.or_true]),
    if_neg (mt (isRead_iff fc).1 hnot)]

/-- A single write's response of the right length and address has its value checked (R195). -/
theorem validateWrite_of_single (hfc : fc ∈ [5, 6]) (hlen : s.dlen.val = 4)
    (haddr : unbe (s.bytesAt 0x300 2) = s.raddr.toNat) : validateWrite fc s =
    failIf (unbe (s.bytesAt 0x302 2) ≠ s.wval.toNat)
      { code := .responseValidation, field := .echoValue, exp := s.wval.toNat, act := unbe (s.bytesAt 0x302 2) }
      (.complete s false) := by
  rw [validateWrite, failIf_neg (not_not_intro hlen), failIf_neg (not_not_intro haddr),
    if_pos ((isWriteSingle_iff fc).2 hfc)]

/-- A multiple write's response of the right length and address has its count checked (R196). -/
theorem validateWrite_of_multiple (hfc : fc ∉ [5, 6]) (hlen : s.dlen.val = 4)
    (haddr : unbe (s.bytesAt 0x300 2) = s.raddr.toNat) : validateWrite fc s =
    failIf (unbe (s.bytesAt 0x302 2) ≠ s.cnt.toNat)
      { code := .responseValidation, field := .echoCount, exp := s.cnt.toNat, act := unbe (s.bytesAt 0x302 2) }
      (.complete s false) := by
  rw [validateWrite, failIf_neg (not_not_intro hlen), failIf_neg (not_not_intro haddr),
    if_neg (mt (isWriteSingle_iff fc).1 hfc)]

/-- A write's response of the right length, address, and value or count passes (R194 to R196). -/
theorem validateWrite_of_echoes (hlen : s.dlen.val = 4) (haddr : unbe (s.bytesAt 0x300 2) = s.raddr.toNat)
    (hvalue : fc ∈ [5, 6] → unbe (s.bytesAt 0x302 2) = s.wval.toNat)
    (hcount : fc ∉ [5, 6] → unbe (s.bytesAt 0x302 2) = s.cnt.toNat) : validateWrite fc s = .complete s false := by
  by_cases hfc : fc ∈ [5, 6]
  · rw [validateWrite_of_single hfc hlen haddr, failIf_neg (not_not_intro (hvalue hfc))]
  · rw [validateWrite_of_multiple hfc hlen haddr, failIf_neg (not_not_intro (hcount hfc))]

end Checks

/-- Settles O48: the function code, then a read's byte count and length, or a write's length and echoes. -/
theorem validateRspChecksAndStrips : Obligations.ValidateRspChecksAndStrips := by
  unfold Obligations.ValidateRspChecksAndStrips
  refine ⟨fun fc hfc => toNat_packWord_functionCode 0x34 hfc,
    fun fc s hfc => fails_of_functionCode (exec_validateRsp fc s) rfl (mt (isSupported_iff fc).1 hfc),
    fun fc s hfc => ?_, fun fc s hfc => ?_⟩
  · have hexec := exec_validateRsp fc s
    rw [validateRsp_of_read hfc, validateRead, show s.dbuf 0 = s.byteAt 0x300 from rfl] at hexec
    simp only [← dataBytes_of_read hfc]
    refine ⟨fun hlen => ?_, fun hlen hbc => ?_, fun hlen hbc hwant => ?_, fun hlen hbc hwant => ?_⟩
    · exact fails_of_ends_natCast (exp := 1) hexec (failIf_pos hlen _ _)
    all_goals rw [failIf_neg (by omega)] at hexec
    · exact fails_of_ends_natCast hexec (failIf_pos hbc _ _)
    all_goals rw [failIf_neg (not_not_intro hbc)] at hexec
    · exact fails_of_ends_natCast hexec (failIf_pos hwant _ _)
    · rw [failIf_neg (not_not_intro hwant)] at hexec
      exact fillsData_of_ends hexec rfl (by simp)
  · have hexec := exec_validateRsp fc s
    rw [validateRsp_of_write hfc] at hexec
    simp only [← BitVec.ofNat_toNat, ← unbe_bytesAt_two]
    refine ⟨fun hlen => ?_, fun hlen haddr => ?_, fun hlen haddr hsingle hvalue => ?_,
      fun hlen haddr hmultiple hcount => ?_, fun hlen haddr hvalue hcount => ?_⟩
    · exact fails_of_ends_natCast (exp := 4) hexec (failIf_pos hlen _ _)
    · exact fails_of_ends_natCast hexec ((failIf_neg (not_not_intro hlen) _ _).trans (failIf_pos haddr _ _))
    · exact fails_of_ends_natCast hexec
        ((validateWrite_of_single hsingle hlen haddr).trans (failIf_pos hvalue _ _))
    · exact fails_of_ends_natCast hexec
        ((validateWrite_of_multiple hmultiple hlen haddr).trans (failIf_pos hcount _ _))
    · rw [OnlyCompletes, hexec, validateWrite_of_echoes hlen haddr hvalue hcount, ends_complete]

end Sys2Proof
end

section
/-! PROOFS. PREDICT (43_response_size.md R220, R221). -/

namespace Sys2Proof

open Sys2Proof.Machine Sys2Proof.Safety

theorem exec_predict (fc : Nat) (s : State) : exec (.predict fc) s = s.ends (predict fc s) := rfl

/-! ## The size classes -/

theorem szTab_of_write : ∀ fc ∈ [5, 6, 15, 16], szTab fc = .write := by decide

theorem szTab_of_readBits : ∀ fc ∈ [1, 2], szTab fc = .readBits := by decide

theorem szTab_of_readRegs : ∀ fc ∈ [3, 4], szTab fc = .readRegs := by decide

/-- Every unsupported function code has the class NONE, whatever its size (R220). -/
theorem szTab_of_unsupported {fc : Nat} (h : fc ∉ [1, 2, 3, 4, 5, 6, 15, 16]) : szTab fc = .none := by
  have hunsupported := mt (isSupported_iff fc).1 h
  simp only [isSupported, isRead, Bool.or_eq_true, not_or] at hunsupported
  obtain ⟨⟨hbits, hregs⟩, hwrite⟩ := hunsupported
  rw [szTab, if_neg hwrite, if_neg hbits, if_neg hregs]

/-! ## The ending in each class -/

section Classes

variable {fc : Nat} {s : State}

/-- A write class reads neither DBUF nor DLEN (R221). -/
theorem predict_of_write (hfc : fc ∈ [5, 6, 15, 16]) : predict fc s = .complete (s.setRes 8 false) false := by
  rw [predict, szTab_of_write fc hfc]

/-- Both read classes check the payload's length before they read its count (R221). -/
theorem predict_of_short (hfc : fc ∈ [1, 2, 3, 4]) (hlen : s.dlen.val < 4) :
    predict fc s = .fail { code := .prediction, field := .predLength, exp := 4, act := s.dlen.val } := by
  obtain hbits | hregs : fc ∈ [1, 2] ∨ fc ∈ [3, 4] := List.mem_append.1 hfc
  · rw [predict, szTab_of_readBits fc hbits]
    exact failIf_pos hlen _ _
  · rw [predict, szTab_of_readRegs fc hregs]
    exact failIf_pos hlen _ _

theorem predict_of_readBits (hfc : fc ∈ [1, 2]) (hlen : 4 ≤ s.dlen.val) : predict fc s =
    .complete (s.setRes (BitVec.ofNat 64 (5 + ceil8 (requestedCount s))) false) false := by
  rw [predict, szTab_of_readBits fc hfc]
  exact failIf_neg (Nat.not_lt.2 hlen) _ _

theorem predict_of_readRegs (hfc : fc ∈ [3, 4]) (hlen : 4 ≤ s.dlen.val) : predict fc s =
    .complete (s.setRes (BitVec.ofNat 64 (5 + 2 * requestedCount s)) false) false := by
  rw [predict, szTab_of_readRegs fc hfc]
  exact failIf_neg (Nat.not_lt.2 hlen) _ _

theorem predict_of_unsupported (hfc : fc ∉ [1, 2, 3, 4, 5, 6, 15, 16]) :
    predict fc s = .fail { code := .prediction, field := .predFc, exp := 0, act := fc } := by
  rw [predict, szTab_of_unsupported hfc]

end Classes

/-- Settles O51: the command's ending in each size class, the count read big-endian from DBUF bytes 2 and 3. -/
theorem predictGivesTheResponseSize : Obligations.PredictGivesTheResponseSize := by
  unfold Obligations.PredictGivesTheResponseSize
  refine ⟨fun fc hfc => toNat_packWord_functionCode 0x40 hfc, fun fc s => ?_⟩
  have hcount : requestedCount s = 256 * (s.byteAt 0x302).toNat + (s.byteAt 0x303).toNat := unbe_bytesAt_two s 0x302
  have hexec := exec_predict fc s
  simp only [← hcount]
  exact ⟨fun hfc => givesResult_of_ends hexec (predict_of_write hfc),
    fun hfc hlen => fails_of_ends_natCast (exp := 4) hexec (predict_of_short hfc hlen),
    fun hfc hlen => givesResult_of_ends hexec (predict_of_readBits hfc hlen),
    fun hfc hlen => givesResult_of_ends hexec (predict_of_readRegs hfc hlen),
    fun hfc => fails_of_ends_natCast (exp := 0) hexec (predict_of_unsupported hfc)⟩

end Sys2Proof
end

section
/-! PROOFS. NOP and CLR (44_control.md R240, R241). -/

namespace Sys2Proof

open Sys2Proof.Machine Sys2Proof.Safety

/-- NOP writes nothing and completes (R240). -/
theorem exec_nop (s : State) : exec .nop s = s.ends (.complete s false) := rfl

/-- CLR writes the two lengths and completes (R241). -/
theorem exec_clr (s : State) : exec .clr s = s.ends (.complete { s with dlen := 0, vcnt := 0 } false) := rfl

/-- Settles O19: NOP hands its own state to `Complete`, so only what R253 names changes. -/
theorem nopOnlyClearsDiagnostics : Obligations.NopOnlyClearsDiagnostics := by
  unfold Obligations.NopOnlyClearsDiagnostics
  refine ⟨rfl, fun s => ?_⟩
  rw [OnlyCompletes, exec_nop, ends_complete]

/-- Settles O20: CLR's writes are DLEN and VCNT, so memory is as it was, and it completes with RESF as it was. -/
theorem clrDropsTheLengths : Obligations.ClrDropsTheLengths := by
  unfold Obligations.ClrDropsTheLengths
  refine ⟨rfl, fun s => ?_⟩
  rw [exec_clr, ends_complete]
  rfl

end Sys2Proof
end

section
/-! PROOFS. STATUS, EEXP and EACT after a command that completes (60_exceptions.md R253). A command's ending is followed
through its checks to the places where it completes: only there does it hand `Complete` a state and a pass-through flag. -/

namespace Sys2Proof

open Sys2Proof.Machine Sys2Proof.Safety

/-! ## The ending of each command -/

/-- How each command's pseudocode ends. SRST executes no `Complete` (R242), but its state is one that `Complete` keeps. -/
def endingOf : Instr → State → Ending
  | .nop, s => .complete s false
  | .crcInit, s => crcInit s
  | .crcByte b, s => crcByte b s
  | .crcData, s => crcData s
  | .encRegI sg d, s => encRegI sg d s
  | .encRegF sg d, s => encRegF sg d s
  | .decReg sg d, s => decReg sg d s
  | .encLong sg bo, s => encLong sg bo s
  | .decLong sg bo, s => decLong sg bo s
  | .encFloat w bo, s => encFloat w bo s
  | .decFloat w bo, s => decFloat w bo s
  | .encRegList, s => encRegList s
  | .decRegList, s => decRegList s
  | .encBits, s => encBits s
  | .decBits, s => decBits s
  | .encCoil, s => encCoil s
  | .wordSwap, s => wordSwap s
  | .payloadRead fc, s => payloadRead fc s
  | .payloadWrite fc, s => payloadWrite fc s
  | .buildReq fc, s => buildReq fc s
  | .parseRsp fc, s => parseRsp fc s
  | .validateRsp fc, s => validateRsp fc s
  | .predict fc, s => predict fc s
  | .clr, s => .complete { s with dlen := 0, vcnt := 0 } false
  | .srst, s => .complete s.softReset false

/-- Every command's outcome is the next state its ending gives (R261). -/
theorem exec_eq_ends_endingOf (i : Instr) (s : State) : exec i s = s.ends (endingOf i s) := by
  cases i <;> rfl

/-- A command that leaves ERR = 0 did not fail (R254), so it completed. -/
theorem completes_of_err_eq_false {i : Instr} {s t : State} (hexec : exec i s = .next t) (herr : t.status.err = false) :
    ∃ u x5, endingOf i s = .complete u x5 ∧ t = u.complete x5 := by
  rw [exec_eq_ends_endingOf, State.ends_eq_next] at hexec
  subst hexec
  obtain ⟨u, x5, he, hfin⟩ | ⟨f, -, hfin⟩ := s.finish_cases (endingOf i s)
  · exact ⟨u, x5, he, hfin⟩
  · rw [hfin, State.fail_status, Status.failed_err] at herr
    cases herr

/-! ## Following an ending through its checks -/

/-- Wherever the ending completes, `P` holds of the state and the pass-through flag it completes with. -/
def CompletesOnlyWith (P : State → Bool → Prop) (e : Ending) : Prop := ∀ t x5, e = .complete t x5 → P t x5

section Checks

variable {P : State → Bool → Prop} {rest : Ending}

theorem CompletesOnlyWith.complete {t : State} {x5 : Bool} (h : P t x5) : CompletesOnlyWith P (.complete t x5) := by
  rintro _ _ ⟨⟩
  exact h

theorem CompletesOnlyWith.fail {f : Failure} : CompletesOnlyWith P (.fail f) := by
  rintro _ _ ⟨⟩

theorem CompletesOnlyWith.failIf {c : Prop} [Decidable c] {f : Failure} (h : CompletesOnlyWith P rest) :
    CompletesOnlyWith P (failIf c f rest) := by
  intro t x5 he
  obtain ⟨-, hfail⟩ | ⟨-, hrest⟩ := failIf_cases he
  · cases hfail
  · exact h t x5 hrest.symm

theorem CompletesOnlyWith.setD {l : List Byte} {s : State} {rest : State → Ending}
    (h : CompletesOnlyWith P (rest (s.putData l))) : CompletesOnlyWith P (setD l s rest) := .failIf h

theorem CompletesOnlyWith.fit {n : Int} {sg : Bool} {bits : Nat} (h : CompletesOnlyWith P rest) :
    CompletesOnlyWith P (fit n sg bits rest) := .failIf (.failIf h)

theorem CompletesOnlyWith.needFc {supported : Bool} {fc : Nat} (h : CompletesOnlyWith P rest) :
    CompletesOnlyWith P (needFc supported fc rest) := .failIf h

theorem CompletesOnlyWith.needDecimals {d : Nat} (h : CompletesOnlyWith P rest) :
    CompletesOnlyWith P (needDecimals d rest) := .failIf h

theorem CompletesOnlyWith.needLength {n : Nat} {s : State} (h : CompletesOnlyWith P rest) :
    CompletesOnlyWith P (needLength n s rest) := .failIf h

theorem CompletesOnlyWith.needCount {n : Nat} {s : State} (h : CompletesOnlyWith P rest) :
    CompletesOnlyWith P (needCount n s rest) := .failIf (.failIf h)

theorem CompletesOnlyWith.needEntries {bound : Nat} {l : List Word} (h : CompletesOnlyWith P rest) :
    CompletesOnlyWith P (needEntries bound l rest) := by
  unfold Machine.needEntries
  split
  · exact .fail
  · exact h

theorem CompletesOnlyWith.ite {c : Prop} [Decidable c] {e e' : Ending} (h : CompletesOnlyWith P e)
    (h' : CompletesOnlyWith P e') : CompletesOnlyWith P (if c then e else e') := by
  split
  · exact h
  · exact h'

theorem CompletesOnlyWith.parseException {s : State} {rest : Bool → Ending}
    (h : ∀ x5, CompletesOnlyWith P (rest x5)) : CompletesOnlyWith P (parseException s rest) :=
  .ite (.failIf (.failIf (h true))) (h false)

end Checks

/-! ## What a command does to STATUS before it completes -/

/-- The commands that write RES, and RESF with it (R120). -/
def WritesRes (i : Instr) : Prop :=
  i = .crcData ∨ (∃ sg d, i = .decReg sg d) ∨ (∃ sg bo, i = .decLong sg bo) ∨ (∃ w bo, i = .decFloat w bo) ∨
    ∃ fc, i = .predict fc

/-- What a command's own writes may do to STATUS before `Complete(x5)`, and who may pass x5 = 1 (R253). -/
structure StatusWrites (i : Instr) (s t : State) (x5 : Bool) : Prop where
  serr : t.status.serr = s.status.serr
  passThrough : x5 = true → ∃ fc, i = .parseRsp fc
  resf : t.status.resf ≠ s.status.resf → WritesRes i

/-- Any command may leave STATUS to `Complete(0)`. -/
theorem StatusWrites.unchanged {i : Instr} {s t : State} (h : t.status = s.status) : StatusWrites i s t false where
  serr := by rw [h]
  passThrough := nofun
  resf hne := absurd (by rw [h]) hne

/-- A command that writes RES may write RESF. -/
theorem StatusWrites.setRes {i : Instr} {s t : State} {v : DWord} {f : Bool} (hi : WritesRes i)
    (h : t.status = s.status) : StatusWrites i s (t.setRes v f) false where
  serr := by rw [State.setRes_status, h]
  passThrough := nofun
  resf _ := hi

/-- PARSE_RSP may pass exception code 5 through. -/
theorem StatusWrites.parseRsp {fc : Nat} {s t : State} {x5 : Bool} (h : t.status = s.status) :
    StatusWrites (.parseRsp fc) s t x5 where
  serr := by rw [h]
  passThrough _ := ⟨fc, rfl⟩
  resf hne := absurd (by rw [h]) hne

/-- Wherever a command other than SRST completes, it has kept SERR, and it has written RESF or passes code 5 through only if
its rule says so: each case is the command's checks in order, then its writes. -/
theorem endingOf_completesOnlyWith_statusWrites {i : Instr} (hi : i ≠ .srst) (s : State) :
    CompletesOnlyWith (StatusWrites i s) (endingOf i s) := by
  cases i with
  | nop => exact .complete (.unchanged rfl)
  | crcInit => exact .complete (.unchanged rfl)
  | crcByte b => exact .complete (.unchanged rfl)
  | crcData => exact .complete (.setRes (.inl rfl) rfl)
  | encRegI sg d => exact .needDecimals <| .fit <| .setD <| .complete <| .unchanged rfl
  | encRegF sg d => exact .needDecimals <| .failIf <| .failIf <| .fit <| .setD <| .complete <| .unchanged rfl
  | decReg sg d =>
    have hres : WritesRes (.decReg sg d) := .inr (.inl ⟨sg, d, rfl⟩)
    exact .needDecimals <| .needLength <| .ite (.complete (.setRes hres rfl)) (.complete (.setRes hres rfl))
  | encLong sg bo => exact .fit <| .setD <| .complete <| .unchanged rfl
  | decLong sg bo => exact .needLength <| .complete <| .setRes (.inr (.inr (.inl ⟨sg, bo, rfl⟩))) rfl
  | encFloat w bo =>
    simp only [endingOf, encFloat]
    split
    · split
      · exact .fail
      · exact .setD <| .complete <| .unchanged rfl
    · exact .setD <| .complete <| .unchanged rfl
  | decFloat w bo =>
    have hres : WritesRes (.decFloat w bo) := .inr (.inr (.inr (.inl ⟨w, bo, rfl⟩)))
    cases w with
    | single => exact .needLength <| .complete <| .setRes hres rfl
    | double => exact .needLength <| .complete <| .setRes hres rfl
  | encRegList => exact .failIf <| .failIf <| .needEntries <| .setD <| .complete <| .unchanged rfl
  | decRegList => exact .needLength <| .complete <| .unchanged rfl
  | encBits => exact .needEntries <| .setD <| .complete <| .unchanged rfl
  | decBits => exact .needLength <| .complete <| .unchanged rfl
  | encCoil => exact .failIf <| .setD <| .complete <| .unchanged rfl
  | wordSwap => exact .failIf <| .setD <| .complete <| .unchanged rfl
  | payloadRead fc => exact .needFc <| .needCount <| .setD <| .complete <| .unchanged rfl
  | payloadWrite fc =>
    exact .needFc <| .ite (.needLength <| .setD <| .complete <| .unchanged rfl)
      (.needCount <| .needLength <| .setD <| .complete <| .unchanged rfl)
  | buildReq fc => exact .needFc <| .failIf <| .complete <| .unchanged rfl
  | parseRsp fc =>
    exact .needFc <| .failIf <| .failIf <| .failIf <| .parseException fun x5 =>
      .failIf <| .setD <| .complete <| .parseRsp rfl
  | validateRsp fc =>
    exact .needFc <| .ite (.failIf <| .failIf <| .failIf <| .setD <| .complete <| .unchanged rfl)
      (.failIf <| .failIf <| .ite (.failIf <| .complete <| .unchanged rfl) (.failIf <| .complete <| .unchanged rfl))
  | predict fc =>
    have hres : WritesRes (.predict fc) := .inr (.inr (.inr (.inr ⟨fc, rfl⟩)))
    simp only [endingOf, predict]
    split
    · exact .fail
    · exact .complete (.setRes hres rfl)
    · exact .failIf <| .complete <| .setRes hres rfl
    · exact .failIf <| .complete <| .setRes hres rfl
  | clr => exact .complete (.unchanged rfl)
  | srst => exact absurd rfl hi

/-- Settles O13: with ERR = 0 the command completed, `Complete` gives ECODE, EFIELD, EEXP, EACT, X5 and SXC (R253), and the
fields it leaves are as the command's own writes left them. -/
theorem completingCommandClearsDiagnostics : Obligations.CompletingCommandClearsDiagnostics := by
  unfold Obligations.CompletingCommandClearsDiagnostics
  intro i s t hexec hi herr
  obtain ⟨u, x5, he, rfl⟩ := completes_of_err_eq_false hexec herr
  obtain ⟨hserr, hx5, hresf⟩ := endingOf_completesOnlyWith_statusWrites hi s u x5 he
  exact ⟨rfl, rfl, rfl, rfl, rfl, hserr, hx5, hresf⟩

end Sys2Proof
end

section
/-! PROOFS. Decoding undoes encoding (30_encoding.md R80 to R90). The fields of R80 do not overlap, so unpacking a packed
word gives its opcode and fields back; the rest is the row of the opcode map that a command has. -/

namespace Sys2Proof

open Sys2Proof.Machine Sys2Proof.Safety

/-! ## Unpacking a packed word -/

@[simp] theorem ByteOrder.ofCode_code (bo : ByteOrder) : ByteOrder.ofCode bo.code = bo := by
  cases bo <;> rfl

@[simp] theorem FloatWidth.ofBit_bit (w : FloatWidth) : FloatWidth.ofBit w.bit = w := by
  cases w <;> rfl

/-- A run of bits of a word is its quotient cut to the run's width. -/
theorem extractLsb'_eq_iff {w : Word} {start len : Nat} {v : BitVec len} :
    w.extractLsb' start len = v ↔ w.toNat / 2 ^ start % 2 ^ len = v.toNat := by
  rw [← BitVec.toNat_inj, BitVec.extractLsb'_toNat, Nat.shiftRight_eq_div_pow]

theorem getLsbD_eq_iff {w : Word} {k : Nat} {b : Bool} : w.getLsbD k = b ↔ w.toNat / 2 ^ k % 2 = b.toNat := by
  rw [BitVec.getLsbD, Nat.testBit_eq_decide_div_mod_eq]
  cases b <;> simp

theorem opField_packWord (op : Byte) (f : Fields) : opField (packWord op f) = op := by
  rw [opField, extractLsb'_eq_iff, toNat_packWord]
  omega

/-- Every field reads back from the place it was packed at (R80, R87). -/
theorem fieldsOf_packWord (op : Byte) (f : Fields) : fieldsOf (packWord op f) = f := by
  have hop := op.isLt
  have hbo := f.bo.code.isLt
  have hsg := f.sg.toNat_lt
  have hw := f.w.bit.toNat_lt
  have hd := f.d.isLt
  have himm := f.imm.isLt
  have hbo' : (packWord op f).extractLsb' 8 2 = f.bo.code := by rw [extractLsb'_eq_iff, toNat_packWord]; omega
  have hsg' : (packWord op f).getLsbD 10 = f.sg := by rw [getLsbD_eq_iff, toNat_packWord]; omega
  have hw' : (packWord op f).getLsbD 11 = f.w.bit := by rw [getLsbD_eq_iff, toNat_packWord]; omega
  have hd' : (packWord op f).extractLsb' 12 4 = f.d := by rw [extractLsb'_eq_iff, toNat_packWord]; omega
  have himm' : (packWord op f).extractLsb' 16 8 = f.imm := by rw [extractLsb'_eq_iff, toNat_packWord]; omega
  rw [fieldsOf, hbo', hsg', hw', hd', himm', ByteOrder.ofCode_code, FloatWidth.ofBit_bit]

/-! ## The row of a command -/

/-- Every command's word passes the acceptance test of its format (R87). -/
theorem encode_and_mask (i : Instr) : encode i &&& i.format.mask = i.opcode.setWidth 32 := by
  cases i with
  | nop => exact Laws.FixedBits.nop
  | crcInit => exact Laws.FixedBits.crcInit
  | crcByte b => exact Laws.FixedBits.crcByte b
  | crcData => exact Laws.FixedBits.crcData
  | encRegI sg d => exact Laws.FixedBits.encRegI sg d
  | encRegF sg d => exact Laws.FixedBits.encRegF sg d
  | decReg sg d => exact Laws.FixedBits.decReg sg d
  | encLong sg bo => exact Laws.FixedBits.encLong sg bo
  | decLong sg bo => exact Laws.FixedBits.decLong sg bo
  | encFloat w bo => exact Laws.FixedBits.encFloat w bo
  | decFloat w bo => exact Laws.FixedBits.decFloat w bo
  | encRegList => exact Laws.FixedBits.encRegList
  | decRegList => exact Laws.FixedBits.decRegList
  | encBits => exact Laws.FixedBits.encBits
  | decBits => exact Laws.FixedBits.decBits
  | encCoil => exact Laws.FixedBits.encCoil
  | wordSwap => exact Laws.FixedBits.wordSwap
  | payloadRead fc => exact Laws.FixedBits.payloadRead fc
  | payloadWrite fc => exact Laws.FixedBits.payloadWrite fc
  | buildReq fc => exact Laws.FixedBits.buildReq fc
  | parseRsp fc => exact Laws.FixedBits.parseRsp fc
  | validateRsp fc => exact Laws.FixedBits.validateRsp fc
  | predict fc => exact Laws.FixedBits.predict fc
  | clr => exact Laws.FixedBits.clr
  | srst => exact Laws.FixedBits.srst

/-- The row found for a command's opcode has its format, and builds a well-formed command back from its fields (R88). -/
theorem find?_opcode (i : Instr) : ∃ r, opcodeMap.find? (fun r => r.op == i.opcode) = some r ∧ r.op = i.opcode ∧
    r.fmt = i.format ∧ (i.wf = true → r.build i.fields = i) := by
  cases i with
  | encRegI _ d | encRegF _ d | decReg _ d =>
    refine ⟨_, rfl, rfl, rfl, fun hwf => ?_⟩
    have hd : d < 16 := of_decide_eq_true hwf
    simp [Instr.fields, Nat.mod_eq_of_lt hd]
  | payloadRead fc | payloadWrite fc | buildReq fc | parseRsp fc | validateRsp fc | predict fc =>
    refine ⟨_, rfl, rfl, rfl, fun hwf => ?_⟩
    have hfc : fc < 256 := of_decide_eq_true hwf
    simp [Instr.fields, Nat.mod_eq_of_lt hfc]
  | _ => exact ⟨_, rfl, rfl, rfl, fun _ => rfl⟩

/-- Settles O5: the opcode finds the command's row, the word passes its acceptance test, and the fields read back. -/
theorem decodingUndoesEncoding : Obligations.DecodingUndoesEncoding := by
  unfold Obligations.DecodingUndoesEncoding
  intro i hwf
  obtain ⟨r, hfind, hop, hfmt, hbuild⟩ := find?_opcode i
  rw [decode, encode, opField_packWord, hfind]
  dsimp only
  rw [fieldsOf_packWord, hfmt, hop, if_pos (show packWord i.opcode i.fields &&& _ = _ from encode_and_mask i),
    hbuild hwf]

/-! ## Words of no command -/

/-- A word the decoder accepts is some well-formed command's (O6), so a word of none is rejected (R90). -/
theorem decode_eq_error_of_no_encode {w : Word} (h : ∀ i : Instr, i.wf = true → encode i ≠ w) :
    ∃ err, decode w = .error err := by
  cases hdec : decode w with
  | error err => exact ⟨err, rfl⟩
  | ok i =>
    obtain ⟨hwf, hword⟩ := encodingUndoesDecoding w i hdec
    exact absurd hword (h i hwf)

/-- A pending write of a word to CMD is served as that command, accepted (R22). -/
theorem step_of_cmdWrite {s : State} {rest : List HostEvent} {w : Word} (h : s.queue = .write 0x004 4 w :: rest) :
    step s = State.command { s with queue := rest } w := by
  rw [step_of_cons h, State.perform, hostWrite_cmd]

/-- Settles O7: the decoder rejects the word, so the accepted write fails as R90 says. -/
theorem illegalWordFailsWithTheWord : Obligations.IllegalWordFailsWithTheWord := by
  unfold Obligations.IllegalWordFailsWithTheWord
  intro s rest w hqueue hword
  obtain ⟨err, hdec⟩ := decode_eq_error_of_no_encode hword
  have hact : BitVec.ofInt 32 (w.toNat : Int) = w := by
    rw [BitVec.ofInt_natCast, BitVec.ofNat_toNat, BitVec.setWidth_eq]
  rw [step_of_cmdWrite hqueue, State.command, hdec]
  simp only [State.illegal, State.fail, hact]
  rfl

/-- Settles O8: each of the seven examples of R92 is assembled, encoded and decoded. -/
theorem exampleTextsAssembleAndDecode : Obligations.ExampleTextsAssembleAndDecode := by
  unfold Obligations.ExampleTextsAssembleAndDecode
  decide

/-- Settles O9: an accepted word runs as its command in the step that serves its write; CMD itself reads 0. -/
theorem cmdWriteRunsTheDecodedCommand : Obligations.CmdWriteRunsTheDecodedCommand := by
  unfold Obligations.CmdWriteRunsTheDecodedCommand
  refine ⟨fun s rest w i hqueue hdec => ?_, fun s rest hqueue => ?_⟩
  · rw [step_of_cmdWrite hqueue, State.command, hdec]
    rfl
  · rw [step_of_cons hqueue]
    rfl

end Sys2Proof
end

section
/-! PROOFS. What a command can do, said once. A command reads only some registers and the content of the buffers, and from
them either fails or makes one update of the state and completes. It is proved of two states alike in what a command reads
(10_state.md R28, R31, R35) that the command ends alike in both; with the two states equal it is what one run can do. -/

namespace Sys2Proof

open Sys2Proof.Machine Sys2Proof.Safety

/-! ## The updates -/

/-- What a command can write before `Complete`. -/
inductive Update where
  | keep
  | crc (c : Half)
  /-- CRC_DATA (R105). -/
  | crcResult (c : Half)
  /-- `setRes` (R120). -/
  | result (v : DWord) (resf : Bool)
  /-- `setD` (R120). -/
  | data (l : List Byte)
  /-- PAYLOAD_WRITE's `setD` and WVAL (R173). -/
  | dataEcho (l : List Byte) (v : Half)
  /-- TXB and TXLEN (R175). -/
  | frame (l : List Byte)
  /-- VARR and VCNT (R134, R136). -/
  | list (l : List Word)
  /-- CLR (R241). -/
  | clear
  /-- SRST (R242). -/
  | reset

/-- The state an update leaves. -/
def Update.apply : Update → State → State
  | .keep, s => s
  | .crc c, s => { s with crc := c }
  | .crcResult c, s => State.setRes { s with crc := c } (c.setWidth 64) false
  | .result v resf, s => s.setRes v resf
  | .data l, s => s.putData l
  | .dataEcho l v, s => { s.putData l with wval := v }
  | .frame l, s => s.putFrame l
  | .list l, s => s.putList l
  | .clear, s => { s with dlen := 0, vcnt := 0 }
  | .reset, s => s.softReset

/-- Which commands make an update, and that its list fits the buffer. -/
def Update.By (i : Instr) : Update → Prop
  | .keep => True
  | .crc _ => i = .crcInit ∨ ∃ b, i = .crcByte b
  | .crcResult _ => i = .crcData
  | .result _ _ =>
    (∃ sg d, i = .decReg sg d) ∨ (∃ sg bo, i = .decLong sg bo) ∨ (∃ w bo, i = .decFloat w bo) ∨ ∃ fc, i = .predict fc
  | .data l => WritesData i ∧ l.length ≤ 256
  | .dataEcho l _ => (i = .payloadWrite 5 ∨ i = .payloadWrite 6) ∧ l.length ≤ 256
  | .frame l => (∃ fc, i = .buildReq fc) ∧ l.length ≤ 256
  | .list l => (i = .decRegList ∨ i = .decBits) ∧ l.length ≤ 2048
  | .clear => i = .clr
  | .reset => i = .srst

/-! ## The failures -/

/-- A failure a command may end in (R251, R252): one of its own codes with a field code paired with it, and SXC only for
the two exception codes, with the code in EACT (R185). -/
structure Raises (i : Instr) (f : Failure) : Prop where
  code : f.code.val ∈ raisedBy i
  pair : (f.code.val, f.field.val) ∈ codePairs
  sxc : if f.code.val = 9 ∨ f.code.val = 10 then f.exp = 0 ∧ f.act = f.sxc.toNat else f.sxc = 0

/-- A failure other than the two of exception responses has no SXC. -/
theorem Raises.plain {i : Instr} {code : ErrCode} {field : ErrField} {exp act : Int} (hcode : code.val ∈ raisedBy i)
    (hpair : (code.val, field.val) ∈ codePairs := by decide)
    (hplain : ¬ (code.val = 9 ∨ code.val = 10) := by decide) : Raises i { code, field, exp, act } :=
  ⟨hcode, hpair, by rw [if_neg hplain]⟩

theorem Raises.slaveException (fc : Nat) (b : Byte) :
    Raises (.parseRsp fc) { code := .slaveException, field := .exceptionCode, exp := 0, act := b.toNat, sxc := b } where
  code := by simp [raisedBy, ErrCode.val]
  pair := (by decide : (ErrCode.slaveException.val, ErrField.exceptionCode.val) ∈ codePairs)
  sxc := ⟨rfl, rfl⟩

theorem Raises.unknownSlaveException (fc : Nat) (b : Byte) :
    Raises (.parseRsp fc)
      { code := .unknownSlaveException, field := .exceptionCode, exp := 0, act := b.toNat, sxc := b } where
  code := by simp [raisedBy, ErrCode.val]
  pair := (by decide : (ErrCode.unknownSlaveException.val, ErrField.exceptionCode.val) ∈ codePairs)
  sxc := ⟨rfl, rfl⟩

/-! ## Two states alike in what a command reads -/

/-- The registers commands read, and the buffers' content (R28, R31). -/
structure SameInputs (s s' : State) : Prop where
  addr : s'.addr = s.addr
  raddr : s'.raddr = s.raddr
  cnt : s'.cnt = s.cnt
  wval : s'.wval = s.wval
  val : s'.val = s.val
  crc : s'.crc = s.crc
  rxlen : s'.rxlen = s.rxlen
  dlen : s'.dlen = s.dlen
  vcnt : s'.vcnt = s.vcnt
  rxb : ∀ k, k < s.rxlen.val → s'.rxb k = s.rxb k
  dbuf : ∀ k, k < s.dlen.val → s'.dbuf k = s.dbuf k
  varr : ∀ k, k < s.vcnt.val → s'.varr k = s.varr k

theorem bytesAt_congr {s s' : State} {base n : Nat} (h : ∀ k, k < n → s'.byteAt (base + k) = s.byteAt (base + k)) :
    s'.bytesAt base n = s.bytesAt base n :=
  List.map_congr_left fun k hk => h k (List.mem_range.1 hk)

namespace SameInputs

variable {s s' : State} (h : SameInputs s s')
include h

theorem bytesAt_dbuf {k n : Nat} (hn : k + n ≤ s.dlen.val) :
    s'.bytesAt (dbufBase + k) n = s.bytesAt (dbufBase + k) n :=
  bytesAt_congr fun j hj => by
    rw [Nat.add_assoc]
    exact h.dbuf (k + j) (by omega)

theorem data : s'.data = s.data := by
  rw [State.data, h.dlen]
  exact h.bytesAt_dbuf (k := 0) (Nat.zero_add _).le

theorem bytesAt_rxb {k n : Nat} (hn : k + n ≤ s.rxlen.val) :
    s'.bytesAt (rxbBase + k) n = s.bytesAt (rxbBase + k) n :=
  bytesAt_congr fun j hj => by
    rw [Nat.add_assoc]
    exact h.rxb (k + j) (by omega)

theorem varrList {n : Nat} (hn : n ≤ s.vcnt.val) : s'.varrList n = s.varrList n :=
  List.map_congr_left fun k hk => h.varr k (by rw [List.mem_range] at hk; omega)

/-- The bits DEC_BITS reads (R136). -/
theorem bits {n : Nat} (hn : n ≤ 8 * s.dlen.val) :
    ((List.range n).map fun k => (BitVec.ofBool ((s'.dbuf (k / 8)).getLsbD (k % 8))).setWidth 32) =
      (List.range n).map fun k => (BitVec.ofBool ((s.dbuf (k / 8)).getLsbD (k % 8))).setWidth 32 :=
  List.map_congr_left fun k hk => by rw [h.dbuf (k / 8) (by rw [List.mem_range] at hk; omega)]

theorem requestBody (fc : Nat) : requestBody fc s' = requestBody fc s := by
  rw [Machine.requestBody, Machine.requestBody, h.addr, h.data]

theorem requestedCount (hlen : 4 ≤ s.dlen.val) : requestedCount s' = requestedCount s := by
  rw [Machine.requestedCount, Machine.requestedCount, h.bytesAt_dbuf hlen]

theorem computedCrc : computedCrc s' = computedCrc s := by
  rw [Machine.computedCrc, Machine.computedCrc, h.rxlen]
  exact congrArg crc16 (h.bytesAt_rxb (k := 0) (by omega))

theorem receivedCrc (hlen : 4 ≤ s.rxlen.val) : receivedCrc s' = receivedCrc s := by
  rw [Machine.receivedCrc, Machine.receivedCrc, h.rxlen, h.rxb _ (by omega), h.rxb _ (by omega)]

end SameInputs

/-! ## Ending alike -/

/-- Two runs of a command from `s` and `s'` end alike: they complete after the same update, or fail alike. -/
inductive EndsAlike (i : Instr) (s s' : State) : Ending → Ending → Prop where
  | complete (u : Update) (x5 : Bool) (h : u.By i) :
      EndsAlike i s s' (.complete (u.apply s) x5) (.complete (u.apply s') x5)
  | fail {f : Failure} (h : Raises i f) : EndsAlike i s s' (.fail f) (.fail f)

namespace EndsAlike

variable {i : Instr} {s s' : State} {rest rest' : Ending}

theorem failIf {c : Prop} [Decidable c] {f : Failure} (hf : Raises i f) (h : ¬ c → EndsAlike i s s' rest rest') :
    EndsAlike i s s' (failIf c f rest) (failIf c f rest') := by
  by_cases hc : c
  · rw [failIf_pos hc, failIf_pos hc]
    exact .fail hf
  · rw [failIf_neg hc, failIf_neg hc]
    exact h hc

theorem failIf_plain {c : Prop} [Decidable c] {code : ErrCode} {field : ErrField} {exp act : Int}
    (h : ¬ c → EndsAlike i s s' rest rest') (hi : code.val ∈ raisedBy i := by simp [raisedBy, ErrCode.val])
    (hpair : (code.val, field.val) ∈ codePairs := by decide)
    (hplain : ¬ (code.val = 9 ∨ code.val = 10) := by decide) :
    EndsAlike i s s' (Machine.failIf c { code, field, exp, act } rest) (Machine.failIf c { code, field, exp, act } rest') :=
  .failIf (.plain hi hpair hplain) h

theorem ite {c : Prop} [Decidable c] {e₁ e₂ e₁' e₂' : Ending} (h : c → EndsAlike i s s' e₁ e₁')
    (h' : ¬ c → EndsAlike i s s' e₂ e₂') :
    EndsAlike i s s' (if c then e₁ else e₂) (if c then e₁' else e₂') := by
  split
  · next hc => exact h hc
  · next hc => exact h' hc

theorem setD {l : List Byte} {x5 : Bool} (hi : WritesData i) (hl : l.length ≤ 256) :
    EndsAlike i s s' (setD l s fun t => .complete t x5) (setD l s' fun t => .complete t x5) := by
  rw [setD_of_le hl, setD_of_le hl]
  exact .complete (.data l) x5 ⟨hi, hl⟩

theorem fit {n : Int} {sg : Bool} {bits : Nat} (h : EndsAlike i s s' rest rest')
    (hi : 3 ∈ raisedBy i := by simp [raisedBy]) : EndsAlike i s s' (fit n sg bits rest) (fit n sg bits rest') :=
  .failIf_plain (fun _ => .failIf_plain (fun _ => h) hi) hi

theorem needFc {supported : Bool} {fc : Nat} (h : supported = true → EndsAlike i s s' rest rest')
    (hi : 13 ∈ raisedBy i := by simp [raisedBy]) :
    EndsAlike i s s' (needFc supported fc rest) (needFc supported fc rest') :=
  .failIf_plain (fun hc => h (Bool.eq_true_of_not_eq_false hc)) hi

theorem needDecimals {d : Nat} (h : EndsAlike i s s' rest rest') (hi : 2 ∈ raisedBy i := by simp [raisedBy]) :
    EndsAlike i s s' (needDecimals d rest) (needDecimals d rest') :=
  .failIf_plain (fun _ => h) hi

theorem needLength {n : Nat} (hin : SameInputs s s') (h : s.dlen.val = n → EndsAlike i s s' rest rest')
    (hi : 4 ∈ raisedBy i := by simp [raisedBy]) :
    EndsAlike i s s' (needLength n s rest) (needLength n s' rest') := by
  rw [Machine.needLength, Machine.needLength, hin.dlen]
  exact .failIf_plain (fun hc => h (not_not.1 hc)) hi

theorem needCount {most : Nat} (hin : SameInputs s s') (h : s.cnt.toNat ≤ most → EndsAlike i s s' rest rest')
    (hi : 2 ∈ raisedBy i := by simp [raisedBy]) :
    EndsAlike i s s' (needCount most s rest) (needCount most s' rest') := by
  rw [Machine.needCount, Machine.needCount, hin.cnt]
  exact .failIf_plain (fun _ => .failIf_plain (fun hc => h (Nat.le_of_not_lt hc)) hi) hi

theorem needEntries {bound : Nat} {l : List Word} (h : EndsAlike i s s' rest rest')
    (hi : 3 ∈ raisedBy i := by simp [raisedBy]) :
    EndsAlike i s s' (needEntries bound l rest) (needEntries bound l rest') := by
  rw [Machine.needEntries, Machine.needEntries]
  split
  · exact .fail (.plain hi)
  · exact h

/-- The exception check reads the function code and the exception code of a frame (R184 to R186). -/
theorem parseException {fc : Nat} {rest rest' : Bool → Ending} (hin : SameInputs s s') (hlen : 4 ≤ s.rxlen.val)
    (h : ∀ x5, EndsAlike (.parseRsp fc) s s' (rest x5) (rest' x5)) :
    EndsAlike (.parseRsp fc) s s' (parseException s rest) (parseException s' rest') := by
  rw [Machine.parseException, Machine.parseException, hin.rxb 1 (by omega), hin.rxb 2 (by omega)]
  exact .ite
    (fun _ => .failIf (.slaveException fc _) fun _ => .failIf (.unknownSlaveException fc _) fun _ => h true)
    fun _ => h false

theorem parsePayload {fc : Nat} {x5 : Bool} (hin : SameInputs s s') (hlen : 4 ≤ s.rxlen.val) :
    EndsAlike (.parseRsp fc) s s' (parsePayload fc s x5) (parsePayload fc s' x5) := by
  have hmax := s.rxlen.isLt
  rw [Machine.parsePayload, Machine.parsePayload, hin.rxb 1 (by omega), hin.rxlen, hin.bytesAt_rxb (by omega)]
  exact .failIf_plain fun _ => .setD trivial (by simp; omega)

end EndsAlike

/-- Every command ends alike from states alike in what it reads: each case is the command's checks in order, then its
update. -/
theorem endingOf_alike (i : Instr) {s s' : State} (h : SameInputs s s') :
    EndsAlike i s s' (endingOf i s) (endingOf i s') := by
  have hmax := s.dlen.isLt
  cases i with
  | nop => exact .complete .keep false trivial
  | crcInit => exact .complete (.crc 0xFFFF) false (.inl rfl)
  | crcByte b =>
    simp only [endingOf, crcByte, h.crc]
    exact .complete (.crc (crcStep s.crc b)) false (.inr ⟨b, rfl⟩)
  | crcData =>
    simp only [endingOf, crcData, h.data]
    exact .complete (.crcResult (crc16 s.data)) false rfl
  | encRegI sg d =>
    simp only [endingOf, encRegI, h.val]
    exact .needDecimals <| .fit <| .setD trivial (by simp)
  | encRegF sg d =>
    simp only [endingOf, encRegF, h.val]
    exact .needDecimals <| .failIf_plain fun _ =>
      .failIf_plain fun _ => .fit <| .setD trivial (by simp)
  | decReg sg d =>
    have hres (v resf) : (Update.result v resf).By (.decReg sg d) := .inl ⟨sg, d, rfl⟩
    simp only [endingOf, decReg, h.data]
    exact .needDecimals <| .needLength h fun _ =>
      .ite (fun _ => .complete (.result _ _) false (hres _ _)) fun _ => .complete (.result _ _) false (hres _ _)
  | encLong sg bo =>
    simp only [endingOf, encLong, h.val]
    exact .fit <| .setD trivial (by simp)
  | decLong sg bo =>
    simp only [endingOf, decLong, h.data]
    exact .needLength h fun _ => .complete (.result _ _) false (.inr (.inl ⟨sg, bo, rfl⟩))
  | encFloat w bo =>
    simp only [endingOf, encFloat, h.val]
    cases w with
    | single =>
      cases narrow s.val with
      | none => exact .fail (.plain (by simp [raisedBy, ErrCode.val]))
      | some p => exact .setD trivial (by simp)
    | double => exact .setD trivial (by simp)
  | decFloat w bo =>
    have hres (v resf) : (Update.result v resf).By (.decFloat w bo) := .inr (.inr (.inl ⟨w, bo, rfl⟩))
    simp only [endingOf, decFloat, h.data]
    refine .needLength h fun _ => ?_
    cases w with
    | single => exact .complete (.result _ _) false (hres _ _)
    | double => exact .complete (.result _ _) false (hres _ _)
  | encRegList =>
    simp only [endingOf, encRegList, h.vcnt, h.cnt]
    refine .failIf_plain fun hcount =>
      .failIf_plain fun hcap => ?_
    have hn : s.cnt.toNat ≤ s.vcnt.val := (not_not.1 hcount).ge
    have hfits : ¬ 256 < 2 * s.cnt.toNat := hcap
    rw [h.varrList hn]
    exact .needEntries <| .setD trivial (by simp; omega)
  | decRegList =>
    simp only [endingOf, decRegList, h.cnt, h.data]
    refine .needLength h fun hlen => .complete (.list _) false ⟨.inl rfl, ?_⟩
    rw [data_eq_bytesAt hlen, regsOf_bytesAt]
    simp
    omega
  | encBits =>
    have hvcnt := s.vcnt.isLt
    simp only [endingOf, encBits, h.vcnt, h.varrList le_rfl]
    exact .needEntries <| .setD trivial (by simp [ceil8]; omega)
  | decBits =>
    simp only [endingOf, decBits, h.cnt]
    refine .needLength h fun hlen => ?_
    rw [ceil8] at hlen
    rw [h.bits (n := s.cnt.toNat) (by omega)]
    exact .complete (.list _) false ⟨.inr rfl, by simp; omega⟩
  | encCoil =>
    simp only [endingOf, encCoil, h.val]
    exact .failIf_plain fun _ => .setD trivial (by split <;> decide)
  | wordSwap =>
    simp only [endingOf, wordSwap, h.dlen, h.data]
    exact .failIf_plain fun _ => .setD trivial (by simp; omega)
  | payloadRead fc =>
    simp only [endingOf, payloadRead, h.raddr, h.cnt]
    exact .needFc fun _ => .needCount h fun _ => .setD trivial (by simp)
  | payloadWrite fc =>
    simp only [endingOf, payloadWrite, h.raddr, h.cnt, h.data]
    refine .needFc fun hfc => .ite (fun hsingle => ?_) fun hsingle => ?_
    · refine .needLength h fun hlen => ?_
      have hl : (be2 s.raddr ++ s.data).length ≤ 256 := by simp; omega
      rw [setD_of_le hl, setD_of_le hl]
      have hfc' : fc = 5 ∨ fc = 6 := by simpa using (isWriteSingle_iff fc).1 hsingle
      exact .complete (.dataEcho _ _) false ⟨hfc'.imp (congrArg _) (congrArg _), hl⟩
    · have hmultiple : fc ∈ [15, 16] :=
        (List.mem_append.1 ((isWrite_iff fc).1 hfc)).resolve_left (mt (isWriteSingle_iff fc).2 hsingle)
      refine .needCount h fun hcount => .needLength h fun hlen => ?_
      have hbytes := dataBytes_le_of_writeMultiple hmultiple hcount
      exact .setD trivial (by simp; omega)
  | buildReq fc =>
    simp only [endingOf, buildReq, h.dlen, h.requestBody]
    refine .needFc fun _ => .failIf_plain fun hcap =>
      .complete (.frame _) false ⟨⟨fc, rfl⟩, ?_⟩
    have hfits : ¬ 256 < s.dlen.val + 4 := hcap
    simp [requestBody, crcTrailer]
    omega
  | parseRsp fc =>
    simp only [endingOf, parseRsp, h.rxlen, h.computedCrc, h.addr]
    refine .needFc fun _ => .failIf_plain fun hlen => ?_
    have hlen' : 4 ≤ s.rxlen.val := Nat.le_of_not_lt hlen
    rw [h.receivedCrc hlen', h.rxb 0 (by omega)]
    exact .failIf_plain fun _ => .failIf_plain fun _ =>
      .parseException h hlen' fun x5 => .parsePayload h hlen'
  | validateRsp fc =>
    simp only [endingOf, validateRsp, validateRead, validateWrite, h.dlen, h.cnt, h.raddr, h.wval]
    refine .needFc fun _ => .ite (fun hread => .failIf_plain fun hlen => ?_) fun _ => .failIf_plain fun hlen => ?_
    · rw [h.dbuf 0 (by omega), h.bytesAt_dbuf (by omega)]
      exact .failIf_plain fun _ => .failIf_plain fun _ => .setD ((isRead_iff fc).1 hread) (by simp)
    · have haddr : s'.bytesAt dbufBase 2 = s.bytesAt dbufBase 2 := h.bytesAt_dbuf (k := 0) (by omega)
      rw [haddr, h.bytesAt_dbuf (by omega)]
      exact .failIf_plain fun _ => .ite (fun _ => .failIf_plain fun _ => .complete .keep false trivial)
        fun _ => .failIf_plain fun _ => .complete .keep false trivial
  | predict fc =>
    have hres (v resf) : (Update.result v resf).By (.predict fc) := .inr (.inr (.inr ⟨fc, rfl⟩))
    simp only [endingOf, predict, h.dlen]
    cases szTab fc with
    | none => exact .fail (.plain (by simp [raisedBy, ErrCode.val]))
    | write => exact .complete (.result _ _) false (hres _ _)
    | readBits =>
      refine .failIf_plain fun hlen => ?_
      rw [h.requestedCount (by omega)]
      exact .complete (.result _ _) false (hres _ _)
    | readRegs =>
      refine .failIf_plain fun hlen => ?_
      rw [h.requestedCount (by omega)]
      exact .complete (.result _ _) false (hres _ _)
  | clr => exact .complete .clear false rfl
  | srst => exact .complete .reset false rfl

/-! ## Runs -/

theorem SameInputs.refl (s : State) : SameInputs s s :=
  ⟨rfl, rfl, rfl, rfl, rfl, rfl, rfl, rfl, rfl, fun _ _ => rfl, fun _ _ => rfl, fun _ _ => rfl⟩

/-- From states alike in what a command reads, it completes after the same update or fails alike. -/
theorem exec_alike (i : Instr) {s s' : State} (h : SameInputs s s') :
    (∃ u x5, Update.By i u ∧ exec i s = .next ((u.apply s).complete x5) ∧
      exec i s' = .next ((u.apply s').complete x5)) ∨
    ∃ f, Raises i f ∧ exec i s = .next (s.fail f) ∧ exec i s' = .next (s'.fail f) := by
  rw [exec_eq_ends_endingOf, exec_eq_ends_endingOf]
  have halike := endingOf_alike i h
  generalize endingOf i s = e, endingOf i s' = e' at halike
  cases halike with
  | complete u x5 hby => exact .inl ⟨u, x5, hby, rfl, rfl⟩
  | fail hraises => exact .inr ⟨_, hraises, rfl, rfl⟩

/-- What a command can do: complete after an update of its own, or fail with a code of its own. -/
theorem exec_cases {i : Instr} {s t : State} (hexec : exec i s = .next t) :
    (∃ u x5, Update.By i u ∧ t = (u.apply s).complete x5) ∨ ∃ f, Raises i f ∧ t = s.fail f := by
  obtain ⟨u, x5, hby, h, -⟩ | ⟨f, hraises, h, -⟩ := exec_alike i (.refl s)
  · exact .inl ⟨u, x5, hby, Host.Outcome.next.inj (hexec.symm.trans h)⟩
  · exact .inr ⟨f, hraises, Host.Outcome.next.inj (hexec.symm.trans h)⟩

/-- A command that leaves ERR = 1 failed. -/
theorem exec_eq_fail_of_err {i : Instr} {s t : State} (hexec : exec i s = .next t) (herr : t.status.err = true) :
    ∃ f, Raises i f ∧ t = s.fail f := by
  obtain ⟨u, x5, -, rfl⟩ | hfail := exec_cases hexec
  · cases herr
  · exact hfail

/-- Settles O12: only `Fail` leaves ERR = 1, and it keeps all but STATUS, EEXP and EACT. -/
theorem failingCommandChangesOnlyDiagnostics : Obligations.FailingCommandChangesOnlyDiagnostics := by
  unfold Obligations.FailingCommandChangesOnlyDiagnostics
  intro i s t hexec herr
  obtain ⟨f, -, rfl⟩ := exec_eq_fail_of_err hexec herr
  rfl

/-- Settles O14: the failure is one the command may end in. -/
theorem eachCommandRaisesOnlyItsCodes : Obligations.EachCommandRaisesOnlyItsCodes := by
  unfold Obligations.EachCommandRaisesOnlyItsCodes
  intro i s t hexec herr
  obtain ⟨f, hraises, rfl⟩ := exec_eq_fail_of_err hexec herr
  exact ⟨hraises.code, hraises.pair⟩

end Sys2Proof
end

section
/-! PROOFS. What each command keeps and what it reads, from the updates (10_state.md R25 to R32, R35). -/

namespace Sys2Proof

open Sys2Proof.Machine Sys2Proof.Safety

/-! ## The bytes an update changes -/

theorem byteAt_putData_of_outside {s : State} {l : List Byte} (hl : l.length ≤ 256) {a : Nat}
    (ha : a < 0x300 ∨ 0x400 ≤ a) : (s.putData l).byteAt a = s.byteAt a :=
  (State.byteAt_congr (s := s.store dbufBase l) rfl rfl a).trans
    (s.byteAt_store_of_outside (ha.imp_right fun h => (Nat.add_le_add_left hl _).trans h))

theorem byteAt_putFrame_of_outside {s : State} {l : List Byte} (hl : l.length ≤ 256) {a : Nat}
    (ha : a < 0x100 ∨ 0x200 ≤ a) : (s.putFrame l).byteAt a = s.byteAt a :=
  (State.byteAt_congr (s := s.store txbBase l) rfl rfl a).trans
    (s.byteAt_store_of_outside (ha.imp_right fun h => (Nat.add_le_add_left hl _).trans h))

theorem byteAt_putList_of_outside {s : State} {l : List Word} (hl : l.length ≤ 2048) {a : Nat}
    (ha : a < 0x2000 ∨ 0x4000 ≤ a) : (s.putList l).byteAt a = s.byteAt a :=
  (State.byteAt_congr (s := s.store varrBase (l.flatMap le4)) rfl rfl a).trans
    (s.byteAt_store_of_outside (ha.imp_right fun h => show 0x2000 + _ ≤ a by rw [length_flatMap_le4]; omega))

section Bytes

variable {i : Instr} {s : State} {u : Update}

/-- Where a byte changes, and by which commands. -/
theorem byteAt_apply_ne (hby : u.By i) {a : Nat} (h : (u.apply s).byteAt a ≠ s.byteAt a) :
    (0x100 ≤ a ∧ a < 0x200 ∧ ∃ fc, i = .buildReq fc) ∨ (0x300 ≤ a ∧ a < 0x400 ∧ WritesData i) ∨
      (0x2000 ≤ a ∧ a < 0x4000 ∧ (i = .decRegList ∨ i = .decBits)) := by
  have hdata (l : List Byte) (hl : l.length ≤ 256) (hne : (s.putData l).byteAt a ≠ s.byteAt a) :
      0x300 ≤ a ∧ a < 0x400 := by
    by_contra hout
    exact hne (byteAt_putData_of_outside hl (by omega))
  cases u with
  | data l => exact .inr (.inl ⟨(hdata l hby.2 h).1, (hdata l hby.2 h).2, hby.1⟩)
  | dataEcho l v =>
    have hwrites : WritesData i := by
      obtain ⟨rfl | rfl, -⟩ := hby <;> trivial
    exact .inr (.inl ⟨(hdata l hby.2 h).1, (hdata l hby.2 h).2, hwrites⟩)
  | frame l =>
    have hin : 0x100 ≤ a ∧ a < 0x200 := by
      by_contra hout
      exact h (byteAt_putFrame_of_outside hby.2 (by omega))
    exact .inl ⟨hin.1, hin.2, hby.1⟩
  | list l =>
    have hin : 0x2000 ≤ a ∧ a < 0x4000 := by
      by_contra hout
      exact h (byteAt_putList_of_outside hby.2 (by omega))
    exact .inr (.inr ⟨hin.1, hin.2, hby.1⟩)
  | _ => exact absurd rfl h

end Bytes

/-! ## The registers an update changes -/

section Registers

variable {i : Instr} {s : State} {u : Update} (hby : u.By i) (hi : i ≠ .srst)
include hby hi

/-- No update but SRST's writes the host's registers (R25 to R27, R30). -/
theorem hostRegisters_apply : (u.apply s).addr = s.addr ∧ (u.apply s).raddr = s.raddr ∧ (u.apply s).cnt = s.cnt ∧
    (u.apply s).val = s.val ∧ (u.apply s).rxlen = s.rxlen := by
  cases u with
  | reset => exact absurd hby hi
  | _ => exact ⟨rfl, rfl, rfl, rfl, rfl⟩

theorem txlen_apply_ne (h : (u.apply s).txlen ≠ s.txlen) : ∃ fc, i = .buildReq fc := by
  cases u with
  | frame l => exact hby.1
  | reset => exact absurd hby hi
  | _ => exact absurd rfl h

theorem dlen_apply_ne (h : (u.apply s).dlen ≠ s.dlen) : WritesData i ∨ i = .clr := by
  cases u with
  | data l => exact .inl hby.1
  | dataEcho l v =>
    obtain ⟨rfl | rfl, -⟩ := hby <;> exact .inl trivial
  | clear => exact .inr hby
  | reset => exact absurd hby hi
  | _ => exact absurd rfl h

theorem crc_apply_ne (h : (u.apply s).crc ≠ s.crc) : i = .crcInit ∨ (∃ b, i = .crcByte b) ∨ i = .crcData := by
  cases u with
  | crc c => exact hby.imp_right .inl
  | crcResult c => exact .inr (.inr hby)
  | reset => exact absurd hby hi
  | _ => exact absurd rfl h

theorem res_apply_ne (h : (u.apply s).res ≠ s.res) : WritesRes i := by
  cases u with
  | crcResult c => exact .inl hby
  | result v resf => exact .inr hby
  | reset => exact absurd hby hi
  | _ => exact absurd rfl h

theorem wval_apply_ne (h : (u.apply s).wval ≠ s.wval) : i = .payloadWrite 5 ∨ i = .payloadWrite 6 := by
  cases u with
  | dataEcho l v => exact hby.1
  | reset => exact absurd hby hi
  | _ => exact absurd rfl h

theorem vcnt_apply_ne (h : (u.apply s).vcnt ≠ s.vcnt) : i = .decRegList ∨ i = .decBits ∨ i = .clr := by
  cases u with
  | list l => exact hby.1.imp_right .inl
  | clear => exact .inr (.inr hby)
  | reset => exact absurd hby hi
  | _ => exact absurd rfl h

end Registers

/-- Settles O17: a failure changes only diagnostics, and no update but SRST's has these registers, none at all RXB. -/
theorem commandsKeepHostRegisters : Obligations.CommandsKeepHostRegisters := by
  unfold Obligations.CommandsKeepHostRegisters
  intro i s t hexec
  obtain ⟨u, x5, hby, rfl⟩ | ⟨f, -, rfl⟩ := exec_cases hexec
  · refine ⟨hostRegisters_apply hby, fun a hlo hhi => ?_, ?_⟩
    · by_contra hne
      obtain ⟨-, hin, -⟩ | ⟨hin, -⟩ | ⟨hin, -⟩ := byteAt_apply_ne hby hne <;> omega
    · cases u <;> exact ⟨rfl, rfl, rfl⟩
  · exact ⟨fun _ => ⟨rfl, rfl, rfl, rfl, rfl⟩, fun _ _ _ => rfl, rfl, rfl, rfl⟩

/-- Settles O18: a failure changes none of these, and an update changes only its own. -/
theorem onlyNamedCommandsWriteEachRegister : Obligations.OnlyNamedCommandsWriteEachRegister := by
  unfold Obligations.OnlyNamedCommandsWriteEachRegister
  intro i s t hexec hi
  obtain ⟨u, x5, hby, rfl⟩ | ⟨f, -, rfl⟩ := exec_cases hexec
  · have hbyte (a : Nat) := byteAt_apply_ne (s := s) (a := a) hby
    refine ⟨?_, ?_, dlen_apply_ne hby hi, crc_apply_ne hby hi, res_apply_ne hby hi, wval_apply_ne hby hi,
      vcnt_apply_ne hby hi, ?_, fun a ha => ?_⟩
    · rintro (hlen | ⟨a, hlo, hhi, hne⟩)
      · exact txlen_apply_ne hby hi hlen
      · obtain ⟨-, -, hwho⟩ | ⟨hin, -⟩ | ⟨hin, -⟩ := hbyte a hne
        · exact hwho
        all_goals omega
    · rintro ⟨a, hlo, hhi, hne⟩
      obtain ⟨-, hin, -⟩ | ⟨-, -, hwho⟩ | ⟨hin, -⟩ := hbyte a hne
      · omega
      · exact hwho
      · omega
    · rintro ⟨a, hlo, hne⟩
      obtain ⟨-, hin, -⟩ | ⟨-, hin, -⟩ | ⟨-, -, hwho⟩ := hbyte a hne
      · omega
      · omega
      · exact hwho
    · by_contra hne
      obtain ⟨hlo, hhi, -⟩ | ⟨hlo, hhi, -⟩ | ⟨hlo, hhi, -⟩ := hbyte a hne <;> omega
  · have hkeep (a : Nat) : ¬ (s.fail f).byteAt a ≠ s.byteAt a := fun hne => hne rfl
    refine ⟨?_, fun ⟨a, _, _, hne⟩ => absurd hne (hkeep a), fun hne => absurd rfl hne, fun hne => absurd rfl hne,
      fun hne => absurd rfl hne, fun hne => absurd rfl hne, fun hne => absurd rfl hne,
      fun ⟨a, _, hne⟩ => absurd hne (hkeep a), fun _ _ => rfl⟩
    rintro (hne | ⟨a, -, -, hne⟩)
    · exact absurd rfl hne
    · exact absurd hne (hkeep a)

/-! ## Two runs -/

/-- Settles O15: STATUS, EEXP and EACT are not among what a command reads, so both runs make the same update, or fail
alike, and `Complete` and `Fail` leave of the old STATUS only SERR and RESF. -/
theorem commandsIgnoreEarlierOutcomes : Obligations.CommandsIgnoreEarlierOutcomes := by
  unfold Obligations.CommandsIgnoreEarlierOutcomes
  intro i s s' t hsame hexec
  rw [SameButDiagnostics] at hsame
  have hin : SameInputs s s' := by
    rw [hsame]
    exact ⟨rfl, rfl, rfl, rfl, rfl, rfl, rfl, rfl, rfl, fun _ _ => rfl, fun _ _ => rfl, fun _ _ => rfl⟩
  obtain ⟨u, x5, -, h, h'⟩ | ⟨f, -, h, h'⟩ := exec_alike i hin
  · obtain rfl := Host.Outcome.next.inj (hexec.symm.trans h)
    have hrun := congrArg (fun x => (u.apply x).complete x5) hsame
    exact ⟨_, h', by cases u <;> exact hrun⟩
  · obtain rfl := Host.Outcome.next.inj (hexec.symm.trans h)
    exact ⟨_, h', congrArg (fun x => x.fail f) hsame⟩

/-! ## Content -/

/-- Entries of VARR depend on the bytes of its window only (R31). -/
theorem varr_congr {s t : State} (h : ∀ a, 0x2000 ≤ a → t.byteAt a = s.byteAt a) (k : Nat) : t.varr k = s.varr k := by
  have hbyte (j : Nat) : t.byteAt (varrBase + 4 * k + j) = s.byteAt (varrBase + 4 * k + j) :=
    h _ (show 0x2000 ≤ 0x2000 + 4 * k + j by omega)
  rw [State.varr, State.varr, State.wordAt, State.wordAt, hbyte 1, hbyte 2, hbyte 3]
  exact congrArg (ofLe4 · _ _ _) (hbyte 0)

/-- A stored list reads the same whatever it was stored over. -/
theorem byteAt_store_inside_eq (s s' : State) {base k : Nat} {bs : List Byte} (hk : k < bs.length) :
    (s'.store base bs).byteAt (base + k) = (s.store base bs).byteAt (base + k) := by
  rw [State.byteAt_store_of_inside _ hk, State.byteAt_store_of_inside _ hk]

section Content

variable {s s' : State} (h : SameContent s s')
include h

/-- States of the same content are alike in what a command reads. -/
theorem sameInputs_of_sameContent : SameInputs s s' := by
  obtain ⟨hregs, -, hdbuf, hrxb, hvarr⟩ := h
  rw [hregs]
  exact ⟨rfl, rfl, rfl, rfl, rfl, rfl, rfl, rfl, rfl, hrxb, hdbuf, hvarr⟩

theorem sameContent_putData {l : List Byte} (hl : l.length ≤ 256) : SameContent (s.putData l) (s'.putData l) := by
  obtain ⟨hregs, htxb, -, hrxb, hvarr⟩ := h
  have htxlen := s.txlen.isLt
  have hrxlen := s.rxlen.isLt
  refine ⟨congrArg (fun x => x.putData l) hregs, fun k hk => ?_, fun k hk => ?_, fun k hk => ?_, fun k hk => ?_⟩
  · rw [State.putData_txlen] at hk
    rw [byteAt_putData_of_outside hl (by omega), byteAt_putData_of_outside hl (by omega), htxb k hk]
  · rw [State.putData_dlen, Fin.val_ofNat, Nat.mod_eq_of_lt (by omega)] at hk
    exact byteAt_store_inside_eq s s' hk
  · rw [State.putData_rxlen] at hk
    rw [byteAt_putData_of_outside hl (by omega), byteAt_putData_of_outside hl (by omega), hrxb k hk]
  · have hkeep (x : State) : (x.putData l).varr k = x.varr k :=
      varr_congr (fun a ha => byteAt_putData_of_outside hl (by omega)) k
    rw [hkeep, hkeep]
    exact hvarr k hk

theorem sameContent_putFrame {l : List Byte} (hl : l.length ≤ 256) : SameContent (s.putFrame l) (s'.putFrame l) := by
  obtain ⟨hregs, -, hdbuf, hrxb, hvarr⟩ := h
  refine ⟨congrArg (fun x => x.putFrame l) hregs, fun k hk => ?_, fun k hk => ?_, fun k hk => ?_, fun k hk => ?_⟩
  · rw [State.putFrame_txlen, Fin.val_ofNat, Nat.mod_eq_of_lt (by omega)] at hk
    exact byteAt_store_inside_eq s s' hk
  · rw [State.putFrame_dlen] at hk
    rw [byteAt_putFrame_of_outside hl (by omega), byteAt_putFrame_of_outside hl (by omega), hdbuf k hk]
  · rw [State.putFrame_rxlen] at hk
    rw [byteAt_putFrame_of_outside hl (by omega), byteAt_putFrame_of_outside hl (by omega), hrxb k hk]
  · have hkeep (x : State) : (x.putFrame l).varr k = x.varr k :=
      varr_congr (fun a ha => byteAt_putFrame_of_outside hl (by omega)) k
    rw [hkeep, hkeep]
    exact hvarr k hk

theorem sameContent_putList {l : List Word} (hl : l.length ≤ 2048) : SameContent (s.putList l) (s'.putList l) := by
  obtain ⟨hregs, htxb, hdbuf, hrxb, -⟩ := h
  have htxlen := s.txlen.isLt
  have hdlen := s.dlen.isLt
  have hrxlen := s.rxlen.isLt
  refine ⟨congrArg (fun x => x.putList l) hregs, fun k hk => ?_, fun k hk => ?_, fun k hk => ?_, fun k hk => ?_⟩
  · rw [State.putList_txlen] at hk
    rw [byteAt_putList_of_outside hl (by omega), byteAt_putList_of_outside hl (by omega), htxb k hk]
  · rw [State.putList_dlen] at hk
    rw [byteAt_putList_of_outside hl (by omega), byteAt_putList_of_outside hl (by omega), hdbuf k hk]
  · rw [State.putList_rxlen] at hk
    rw [byteAt_putList_of_outside hl (by omega), byteAt_putList_of_outside hl (by omega), hrxb k hk]
  · rw [State.putList_vcnt, Fin.val_ofNat, Nat.mod_eq_of_lt (by omega)] at hk
    rw [State.varr_putList, State.varr_putList, List.getElem?_eq_getElem hk, Option.getD_some, Option.getD_some]

/-- An update of a command leaves states of the same content with the same content. -/
theorem sameContent_apply {i : Instr} {u : Update} (hby : u.By i) : SameContent (u.apply s) (u.apply s') := by
  cases u with
  | keep => exact h
  | crc c => exact ⟨congrArg (Update.crc c).apply h.1, h.2⟩
  | crcResult c => exact ⟨congrArg (Update.crcResult c).apply h.1, h.2⟩
  | result v resf => exact ⟨congrArg (Update.result v resf).apply h.1, h.2⟩
  | data l => exact sameContent_putData h hby.2
  | dataEcho l v =>
    obtain ⟨hregs, hbytes⟩ := sameContent_putData h hby.2
    exact ⟨congrArg (fun x => { x with wval := v }) hregs, hbytes⟩
  | frame l => exact sameContent_putFrame h hby.2
  | list l => exact sameContent_putList h hby.2
  | clear =>
    obtain ⟨hregs, htxb, -, hrxb, -⟩ := h
    exact ⟨congrArg Update.clear.apply hregs, htxb, nofun, hrxb, nofun⟩
  | reset => exact ⟨congrArg Update.reset.apply h.1, nofun, nofun, nofun, nofun⟩

end Content

/-- Settles O16: a command reads content only, so both runs make the same update, or fail alike, and an update leaves the
same content. -/
theorem commandsReadOnlyContent : Obligations.CommandsReadOnlyContent := by
  unfold Obligations.CommandsReadOnlyContent
  intro i s s' t hsame hexec
  obtain ⟨u, x5, hby, h, h'⟩ | ⟨f, -, h, h'⟩ := exec_alike i (sameInputs_of_sameContent hsame)
  · obtain rfl := Host.Outcome.next.inj (hexec.symm.trans h)
    obtain ⟨hregs, hbytes⟩ := sameContent_apply hsame hby
    exact ⟨_, h', congrArg (fun x => x.complete x5) hregs, hbytes⟩
  · obtain rfl := Host.Outcome.next.inj (hexec.symm.trans h)
    obtain ⟨hregs, hbytes⟩ := hsame
    exact ⟨_, h', congrArg (fun x => x.fail f) hregs, hbytes⟩

end Sys2Proof
end

section
/-! PROOFS. Steps (20_memory.md R66, R69, R70; 10_state.md R20): what each host event can do, the invariant, and what the
pending events have to do with it. -/

namespace Sys2Proof

open Sys2Proof.Machine Sys2Proof.Safety

/-! ## What a host write can do -/

/-- A host write runs a command, fails an illegal word, stores, or is refused. -/
theorem hostWrite_cases {s t : State} {off n : Nat} {v : Word} (h : s.hostWrite off n v = .next t) :
    (∃ i, exec i s.accept = .next t) ∨ t = s.accept.illegal v ∨ (∃ u, s.memWrite off n v = some u ∧ t = u.accept) ∨
      t = { s with resp := .writeError } := by
  rw [State.hostWrite, State.command] at h
  split at h
  · split at h
    · exact .inl ⟨_, h⟩
    · exact .inr (.inl (Host.Outcome.next.inj h).symm)
  · split at h
    · next u hmem => exact .inr (.inr (.inl ⟨u, hmem, (Host.Outcome.next.inj h).symm⟩))
    · exact .inr (.inr (.inr (Host.Outcome.next.inj h).symm))

/-- A host read answers its value or is refused with 0. -/
theorem hostRead_cases (s : State) (off n : Nat) :
    (∃ v, s.hostRead off n = { s with resp := .readOk v }) ∨ s.hostRead off n = { s with resp := .readError 0 } := by
  rw [State.hostRead]
  split
  · exact .inl ⟨_, rfl⟩
  · exact .inr rfl

/-- An accepted register write keeps the memory and the diagnostics but for SERR (R23). -/
theorem writeReg_keeps {s t : State} {r : Reg} {v : Word} (h : s.writeReg r v = some t) :
    t.mem = s.mem ∧ t.eexp = s.eexp ∧ t.eact = s.eact ∧ ∃ b, t.status = { s.status with serr := b } := by
  unfold State.writeReg at h
  cases r <;> simp only [reduceCtorEq, Option.ite_none_right_eq_some, Option.some.injEq] at h
  case valLo | valHi =>
    subst h
    exact ⟨rfl, rfl, rfl, _, rfl⟩
  all_goals
    obtain ⟨-, rfl⟩ := h
    exact ⟨rfl, rfl, rfl, _, rfl⟩

/-- The four bytes of an aligned word lie in the same window. -/
theorem isStorage_add {off k : Nat} (h : isStorage off = true) (haligned : off % 4 = 0) (hk : k < 4) :
    isStorage (off + k) = true := by
  simp only [isStorage, Bool.or_eq_true, Bool.and_eq_true, decide_eq_true_eq, txbBase, crctabBase, varrBase] at h ⊢
  omega

/-- An accepted buffer write stores one byte, or four at an aligned offset (R63). -/
theorem writeBuf_cases {s t : State} {off n : Nat} {v : Word} (hoff : isStorage off = true)
    (h : s.writeBuf off n v = some t) :
    ∃ bs : List Byte, (∀ k, k < bs.length → isStorage (off + k) = true) ∧ t = s.store off bs := by
  rw [State.writeBuf] at h
  split at h
  · refine ⟨[byteOf v 0], fun k hk => ?_, (Option.some.inj h).symm⟩
    rwa [Nat.lt_one_iff.1 hk]
  · obtain ⟨⟨-, haligned⟩, hstore⟩ := Option.ite_none_right_eq_some.1 h
    exact ⟨le4 v, fun k => isStorage_add hoff haligned, (Option.some.inj hstore).symm⟩

/-- Below 0x48 stand registers, at their own aligned offsets (R60, R62). -/
theorem region_of_lt {off : Nat} (h : off < 0x48) :
    (off % 4 = 0 ∧ ∃ r, region off = .reg r) ∨ region off = .reserved := by
  rw [region, if_pos h]
  split
  · next haligned =>
    cases regMap[off / 4]? with
    | none => exact .inr rfl
    | some r => exact .inl ⟨haligned, r, rfl⟩
  · exact .inr rfl

/-- The address map, by offset (R60). -/
theorem region_cases (off : Nat) : (off < 0x48 ∧ off % 4 = 0 ∧ ∃ r, region off = .reg r) ∨ region off = .reserved ∨
    (0x100 ≤ off ∧ off < 0x200 ∧ region off = .txb) ∨ (0x200 ≤ off ∧ off < 0x300 ∧ region off = .rxb) ∨
    (0x300 ≤ off ∧ off < 0x400 ∧ region off = .dbuf) ∨ (0x400 ≤ off ∧ off < 0x800 ∧ region off = .crctab) ∨
    (0x2000 ≤ off ∧ off < 0x4000 ∧ region off = .varr) := by
  by_cases hreg : off < 0x48
  · exact (region_of_lt hreg).imp (⟨hreg, ·⟩) .inl
  by_cases htxb : 0x100 ≤ off ∧ off < 0x200
  · simp [region_txb htxb.1 htxb.2, htxb]
  by_cases hrxb : 0x200 ≤ off ∧ off < 0x300
  · simp [region_rxb hrxb.1 hrxb.2, hrxb]
  by_cases hdbuf : 0x300 ≤ off ∧ off < 0x400
  · simp [region_dbuf hdbuf.1 hdbuf.2, hdbuf]
  by_cases hcrctab : 0x400 ≤ off ∧ off < 0x800
  · simp [region_crctab hcrctab.1 hcrctab.2, hcrctab]
  by_cases hvarr : 0x2000 ≤ off ∧ off < 0x4000
  · simp [region_varr hvarr.1 hvarr.2, hvarr]
  · exact .inr (.inl (region_reserved (by omega)))

/-- An accepted write other than to CMD is a register write, or stores bytes in a buffer. -/
theorem memWrite_cases {s t : State} {off n : Nat} {v : Word} (h : s.memWrite off n v = some t) :
    (∃ r, s.writeReg r v = some t) ∨
      ∃ bs : List Byte, (∀ k, k < bs.length → isStorage (off + k) = true) ∧ t = s.store off bs := by
  rw [State.memWrite] at h
  obtain ⟨-, -, r, hr⟩ | hr | ⟨-, -, hr⟩ | ⟨hlo, hhi, hr⟩ | ⟨hlo, hhi, hr⟩ | ⟨-, -, hr⟩ | ⟨hlo, hhi, hr⟩ := region_cases off <;>
    rw [hr] at h <;> dsimp only at h
  · exact .inl ⟨r, (Option.ite_none_right_eq_some.1 h).2⟩
  · cases h
  · cases h
  · exact .inr (writeBuf_cases (isStorage_of_buffer (by omega) (by omega)) h)
  · exact .inr (writeBuf_cases (isStorage_of_buffer (by omega) hhi) h)
  · cases h
  · obtain ⟨⟨-, haligned⟩, hstore⟩ := Option.ite_none_right_eq_some.1 h
    exact .inr ⟨le4 v, fun k => isStorage_add (isStorage_of_varr hlo hhi) haligned, (Option.some.inj hstore).symm⟩

/-- An accepted write other than to CMD keeps EEXP, EACT, and STATUS but for SERR, and the memory canonical. -/
theorem memWrite_keeps {s t : State} {off n : Nat} {v : Word} (h : s.memWrite off n v = some t) :
    (s.mem.wf = true → t.mem.wf = true) ∧ t.eexp = s.eexp ∧ t.eact = s.eact ∧
      ∃ b, t.status = { s.status with serr := b } := by
  obtain ⟨r, hreg⟩ | ⟨bs, hstorage, rfl⟩ := memWrite_cases h
  · obtain ⟨hmem, hdiag⟩ := writeReg_keeps hreg
    exact ⟨fun hwf => hmem ▸ hwf, hdiag⟩
  · exact ⟨fun hwf => Memory.wf_write hwf hstorage, rfl, rfl, _, rfl⟩

/-! ## The invariant -/

/-- The diagnostics stay consistent where only SERR changes. -/
theorem diagnosticsOk_of_serr {s t : State} (hs : DiagnosticsOk s) (heexp : t.eexp = s.eexp) (heact : t.eact = s.eact)
    (hstatus : ∃ b, t.status = { s.status with serr := b }) : DiagnosticsOk t := by
  obtain ⟨b, hstatus⟩ := hstatus
  rw [DiagnosticsOk, hstatus, heexp, heact]
  exact hs

theorem inv_of_serr {s t : State} (hs : Inv s) (hmem : s.mem.wf = true → t.mem.wf = true) (heexp : t.eexp = s.eexp)
    (heact : t.eact = s.eact) (hstatus : ∃ b, t.status = { s.status with serr := b }) : Inv t :=
  ⟨hmem hs.1, diagnosticsOk_of_serr hs.2 heexp heact hstatus⟩

theorem diagnosticsOk_complete (s : State) (x5 : Bool) : DiagnosticsOk (s.complete x5) := by
  rw [DiagnosticsOk, if_neg (by simp)]
  exact ⟨rfl, rfl, rfl, rfl, rfl⟩

theorem diagnosticsOk_fail (s : State) {f : Failure} (hpair : (f.code.val, f.field.val) ∈ codePairs)
    (hsxc : if f.code.val = 9 ∨ f.code.val = 10 then f.exp = 0 ∧ f.act = f.sxc.toNat else f.sxc = 0) :
    DiagnosticsOk (s.fail f) := by
  rw [DiagnosticsOk, if_pos (show (s.fail f).status.err = true from rfl)]
  refine ⟨rfl, hpair, ?_⟩
  by_cases hcode : f.code.val = 9 ∨ f.code.val = 10
  · rw [if_pos hcode] at hsxc
    obtain ⟨hexp, hact⟩ := hsxc
    rw [if_pos (show (s.fail f).status.ecode = 9 ∨ (s.fail f).status.ecode = 10 from hcode), State.fail_eexp,
      State.fail_eact, hexp, hact, BitVec.ofInt_natCast, BitVec.ofNat_toNat]
    exact ⟨rfl, rfl⟩
  · rw [if_neg hcode] at hsxc
    rwa [if_neg (show ¬ ((s.fail f).status.ecode = 9 ∨ (s.fail f).status.ecode = 10) from hcode)]

/-- An update stores inside the buffers only. -/
theorem apply_mem_wf {i : Instr} {u : Update} {s : State} (hby : u.By i) (hs : s.mem.wf = true) :
    (u.apply s).mem.wf = true := by
  cases u with
  | data l => exact putData_mem_wf hs hby.2
  | dataEcho l v => exact putData_mem_wf (l := l) hs hby.2
  | frame l => exact putFrame_mem_wf hs hby.2
  | list l => exact putList_mem_wf hs hby.2
  | _ => exact hs

/-- A command keeps the invariant, whatever the diagnostics were before it. -/
theorem inv_of_exec {i : Instr} {s t : State} (hs : s.mem.wf = true) (hexec : exec i s = .next t) : Inv t := by
  obtain ⟨u, x5, hby, rfl⟩ | ⟨f, hraises, rfl⟩ := exec_cases hexec
  · exact ⟨apply_mem_wf hby hs, diagnosticsOk_complete _ x5⟩
  · exact ⟨hs, diagnosticsOk_fail s hraises.pair hraises.sxc⟩

theorem inv_of_hostWrite {s t : State} {off n : Nat} {v : Word} (hs : Inv s) (h : s.hostWrite off n v = .next t) :
    Inv t := by
  obtain ⟨i, hexec⟩ | rfl | ⟨u, hmem, rfl⟩ | rfl := hostWrite_cases h
  · exact inv_of_exec (s := s.accept) hs.1 hexec
  · exact ⟨hs.1, diagnosticsOk_fail s.accept (by decide : ((1 : Byte), (0x00 : Byte)) ∈ codePairs) rfl⟩
  · obtain ⟨hwf, heexp, heact, hstatus⟩ := memWrite_keeps hmem
    exact inv_of_serr hs hwf heexp heact hstatus
  · exact hs

/-- Settles O3: a command leaves what `Complete` or `Fail` leaves, and any other event keeps the diagnostics but for SERR,
or resets them. -/
theorem everyStepKeepsTheInvariant : Obligations.EveryStepKeepsTheInvariant := by
  unfold Obligations.EveryStepKeepsTheInvariant
  intro s t hs hstep
  cases hqueue : s.queue with
  | nil =>
    rw [step_of_nil hqueue] at hstep
    exact Host.Outcome.next.inj hstep ▸ hs
  | cons e rest =>
    rw [step_of_cons hqueue] at hstep
    have hs' : Inv { s with queue := rest } := hs
    cases e with
    | read off n =>
      obtain rfl := Host.Outcome.next.inj hstep
      obtain ⟨v, hread⟩ | hread := hostRead_cases { s with queue := rest } off n <;> rw [hread] <;> exact hs'
    | write off n v => exact inv_of_hostWrite hs' hstep
    | check =>
      obtain rfl := Host.Outcome.next.inj hstep
      exact hs'
    | powerOnReset =>
      obtain rfl := Host.Outcome.next.inj hstep
      exact ⟨powerOn_mem_wf _, rfl, rfl, rfl, rfl, rfl⟩

/-- Settles O2: nothing is written and no command has run. -/
theorem invariantHoldsAtReset : Obligations.InvariantHoldsAtReset := by
  unfold Obligations.InvariantHoldsAtReset
  exact ⟨reset_mem_wf, rfl, rfl, rfl, rfl, rfl⟩

/-! ## What the pending events have to do with an event -/

/-- A command does the same whatever events are pending. -/
theorem exec_queue {i : Instr} {s t : State} (hexec : exec i s = .next t) (q : List HostEvent) :
    exec i { s with queue := q } = .next { t with queue := q } := by
  have hin : SameInputs s { s with queue := q } :=
    ⟨rfl, rfl, rfl, rfl, rfl, rfl, rfl, rfl, rfl, fun _ _ => rfl, fun _ _ => rfl, fun _ _ => rfl⟩
  obtain ⟨u, x5, -, h, h'⟩ | ⟨f, -, h, h'⟩ := exec_alike i hin
  · obtain rfl := Host.Outcome.next.inj (hexec.symm.trans h)
    rw [h']
    cases u <;> rfl
  · obtain rfl := Host.Outcome.next.inj (hexec.symm.trans h)
    exact h'

theorem writeReg_queue (s : State) (r : Reg) (v : Word) (q : List HostEvent) :
    State.writeReg { s with queue := q } r v = (s.writeReg r v).map fun t => { t with queue := q } := by
  cases r <;> simp only [State.writeReg, apply_ite (Option.map _), Option.map_some, Option.map_none]

theorem writeBuf_queue (s : State) (off n : Nat) (v : Word) (q : List HostEvent) :
    State.writeBuf { s with queue := q } off n v = (s.writeBuf off n v).map fun t => { t with queue := q } := by
  simp only [State.writeBuf, apply_ite (Option.map _), Option.map_some, Option.map_none]
  rfl

theorem memWrite_queue (s : State) (off n : Nat) (v : Word) (q : List HostEvent) :
    State.memWrite { s with queue := q } off n v = (s.memWrite off n v).map fun t => { t with queue := q } := by
  unfold State.memWrite
  cases region off <;> simp only [writeReg_queue, writeBuf_queue, apply_ite (Option.map _), Option.map_some, Option.map_none]
  rfl

/-- A host write does the same whatever events are pending. -/
theorem hostWrite_queue (s : State) (off n : Nat) (v : Word) (q : List HostEvent) :
    ∃ t, s.hostWrite off n v = .next t ∧ State.hostWrite { s with queue := q } off n v = .next { t with queue := q } := by
  rw [State.hostWrite, State.hostWrite, State.command, State.command, memWrite_queue s off n v q]
  split
  · cases decode v with
    | ok i =>
      have hexec : exec i s.accept = .next (s.accept.finish (endingOf i s.accept)) := exec_eq_ends_endingOf i s.accept
      exact ⟨_, hexec, exec_queue hexec q⟩
    | error err => exact ⟨_, rfl, rfl⟩
  · cases s.memWrite off n v with
    | some t => exact ⟨_, rfl, rfl⟩
    | none => exact ⟨_, rfl, rfl⟩

/-- Any event but `chk` does the same whatever events are pending. -/
theorem perform_queue {e : HostEvent} (he : e ≠ .check) (s : State) (q : List HostEvent) :
    ∃ t, s.perform e = .next t ∧ State.perform { s with queue := q } e = .next { t with queue := q } := by
  cases e with
  | read off n =>
    refine ⟨_, rfl, ?_⟩
    have hmem : State.memRead { s with queue := q } off n = s.memRead off n := rfl
    rw [State.perform, State.hostRead, State.hostRead, hmem]
    cases s.memRead off n <;> rfl
  | write off n v => exact hostWrite_queue s off n v q
  | check => exact absurd rfl he
  | powerOnReset => exact ⟨_, rfl, rfl⟩

/-- Settles O11: the event is performed on states that differ in the events after it only. -/
theorem laterAccessesCannotAffectAnEvent : Obligations.LaterAccessesCannotAffectAnEvent := by
  unfold Obligations.LaterAccessesCannotAffectAnEvent
  intro s e rest hqueue he
  obtain ⟨t, halone, hpending⟩ := perform_queue he { s with queue := [] } rest
  refine ⟨t, ?_, ?_⟩
  · rw [step_of_cons rfl]
    exact halone
  · rw [step_of_cons hqueue]
    exact hpending

/-! ## Steps answer -/

/-- Every event answers a next state (R261). -/
theorem perform_answers (s : State) (e : HostEvent) : ∃ t, s.perform e = .next t := by
  by_cases he : e = .check
  · subst he
    exact ⟨_, rfl⟩
  · obtain ⟨t, h, -⟩ := perform_queue he s s.queue
    exact ⟨t, h⟩

/-- Settles O10: a command's ending is a state, and so is what each event leaves. -/
theorem nothingEverStopsTheMachine : Obligations.NothingEverStopsTheMachine := by
  unfold Obligations.NothingEverStopsTheMachine
  refine ⟨fun i s => ⟨_, exec_eq_ends_endingOf i s⟩, fun s => ?_⟩
  cases hqueue : s.queue with
  | nil => exact ⟨s, step_of_nil hqueue⟩
  | cons e rest =>
    rw [step_of_cons hqueue]
    exact perform_answers _ e

/-- Settles O53: a read, answered or refused, writes `resp` only. -/
theorem readsHaveNoSideEffect : Obligations.ReadsHaveNoSideEffect := by
  unfold Obligations.ReadsHaveNoSideEffect
  intro s off n rest hqueue
  rw [step_of_cons hqueue, State.perform]
  obtain ⟨v, hread⟩ | hread := hostRead_cases { s with queue := rest } off n <;> exact ⟨_, congrArg _ hread⟩

/-- A write that is answered with an error is a refused one. -/
theorem hostWrite_refused {s t : State} {off n : Nat} {v : Word} (h : s.hostWrite off n v = .next t)
    (hresp : t.resp ≠ .writeOk) : t = { s with resp := .writeError } := by
  obtain ⟨i, hexec⟩ | rfl | ⟨u, -, rfl⟩ | h := hostWrite_cases h
  · obtain ⟨-, -, -, -, hkeep⟩ := commandsKeepHostRegisters i _ t hexec
    exact absurd hkeep hresp
  · exact absurd rfl hresp
  · exact absurd rfl hresp
  · exact h

/-- Settles O52: only a refused access is answered with an error, and it writes `resp` only. -/
theorem refusedAccessChangesNothing : Obligations.RefusedAccessChangesNothing := by
  unfold Obligations.RefusedAccessChangesNothing
  intro s e rest t hqueue hstep
  rw [step_of_cons hqueue] at hstep
  cases e with
  | read off n =>
    obtain rfl := Host.Outcome.next.inj hstep
    obtain ⟨v, hread⟩ | hread := hostRead_cases { s with queue := rest } off n <;> rw [hread]
    · exact ⟨nofun, nofun⟩
    · exact ⟨nofun, fun v hv => ⟨(Response.readError.inj hv).symm, rfl, off, n, rfl⟩⟩
  | write off n v =>
    refine ⟨fun hresp => ⟨hostWrite_refused hstep (by rw [hresp]; nofun), off, n, v, rfl⟩, fun w hresp => ?_⟩
    have hrefused := hostWrite_refused hstep (by rw [hresp]; nofun)
    rw [hrefused] at hresp
    cases hresp
  | check =>
    obtain rfl := Host.Outcome.next.inj hstep
    exact ⟨nofun, nofun⟩
  | powerOnReset =>
    obtain rfl := Host.Outcome.next.inj hstep
    exact ⟨nofun, nofun⟩

end Sys2Proof
end

section
/-! PROOFS. The reset state, power-on, SRST and CRC_DATA (10_state.md R38, 70_reset_and_hazards.md R280, 44_control.md
R242, 40_crc.md R105). -/

namespace Sys2Proof

open Sys2Proof.Machine Sys2Proof.Safety

/-- Where nothing is written a byte is the unspecified one (R38). -/
theorem byteAt_of_mem_nil {s : State} (h : s.mem = []) (a : Nat) : s.byteAt a = Config.powerOnByte s.epoch a := by
  rw [State.byteAt, h]
  rfl

/-- SRST's registers are the reset state's (R242). -/
theorem regValue_softReset (s : State) (r : Reg) : regValue s.softReset r = regValue State.reset r := by
  cases r <;> rfl

theorem exec_srst (s : State) : exec .srst s = .next s.softReset := rfl

/-- Settles O1: the reset state's registers, one by one, and its empty memory. -/
theorem resetLeavesTheStatedValues : Obligations.ResetLeavesTheStatedValues := by
  unfold Obligations.ResetLeavesTheStatedValues
  refine ⟨fun r => ?_, rfl, byteAt_of_mem_nil rfl⟩
  cases r <;> rfl

/-- Settles O4: power-on takes SRST's registers, and forgets the memory under a new count. -/
theorem powerOnResetsRegistersAndForgetsBuffers : Obligations.PowerOnResetsRegistersAndForgetsBuffers := by
  unfold Obligations.PowerOnResetsRegistersAndForgetsBuffers
  intro s rest hqueue
  refine ⟨State.powerOn { s with queue := rest }, s.softReset, step_of_cons hqueue, exec_srst s, fun r => ?_, rfl,
    Nat.succ_ne_self s.epoch, byteAt_of_mem_nil rfl⟩
  cases r <;> rfl

/-- Settles O21: SRST's registers are the reset state's, and it writes nothing else. -/
theorem srstRestoresTheRegisters : Obligations.SrstRestoresTheRegisters := by
  unfold Obligations.SrstRestoresTheRegisters
  exact ⟨rfl, fun s => ⟨_, exec_srst s, regValue_softReset s, fun a => rfl, rfl⟩⟩

/-- Settles O25: CRC_DATA completes with the CRC of its data in CRC and RES. -/
theorem crcDataWritesCrcAndResult : Obligations.CrcDataWritesCrcAndResult := by
  unfold Obligations.CrcDataWritesCrcAndResult
  refine ⟨rfl, fun s => ?_⟩
  have hexec : exec .crcData s = s.ends (crcData s) := rfl
  rw [hexec, crcData, ends_complete, crc16_eq_specCrc, BitVec.ofNat_toNat]
  rfl

end Sys2Proof
end

section
/-! PROOFS. Host accesses to the registers, the buffers and the tables (10_state.md R21 to R37, 20_memory.md R60 to R66). -/

namespace Sys2Proof

open Sys2Proof.Machine Sys2Proof.Safety

/-! ## One step per answer -/

section Access

variable {s : State} {off n : Nat} {v : Word} {rest : List HostEvent}

theorem step_of_read (hqueue : s.queue = .read off n :: rest) (h : s.memRead off n = some v) :
    step s = .next { s with queue := rest, resp := .readOk v } := by
  have hread : State.memRead { s with queue := rest } off n = some v := h
  rw [step_of_cons hqueue, State.perform, State.hostRead, hread]

theorem step_of_refused_read (hqueue : s.queue = .read off n :: rest) (h : s.memRead off n = none) :
    step s = .next { s with queue := rest, resp := .readError 0 } := by
  have hread : State.memRead { s with queue := rest } off n = none := h
  rw [step_of_cons hqueue, State.perform, State.hostRead, hread]

variable (hqueue : s.queue = .write off n v :: rest) (hcmd : ¬ (region off = .reg .cmd ∧ n = 4))
include hqueue hcmd

theorem step_of_write {t : State} (h : s.memWrite off n v = some t) :
    step s = .next { t with queue := rest, resp := .writeOk } := by
  rw [step_of_cons hqueue, State.perform, State.hostWrite, if_neg hcmd, memWrite_queue s off n v rest, h]
  rfl

theorem step_of_refused_write (h : s.memWrite off n v = none) :
    step s = .next { s with queue := rest, resp := .writeError } := by
  rw [step_of_cons hqueue, State.perform, State.hostWrite, if_neg hcmd, memWrite_queue s off n v rest, h]
  rfl

end Access

/-! ## Registers -/

/-- Every register stands at its offset (R60). -/
theorem region_regOffset (r : Reg) : region (regOffset r) = .reg r := by
  cases r <;> rfl

theorem or_reverse (a b c d e f g : Word) :
    a ||| b ||| c ||| d ||| e ||| f ||| g = g ||| f ||| e ||| d ||| c ||| b ||| a := by
  ac_rfl

/-- The fields of STATUS, the lowest first (R23). -/
theorem statusWord_eq (st : Status) : st.word =
    (BitVec.ofBool st.err).setWidth 32 ||| (BitVec.ofBool st.serr).setWidth 32 <<< 1 |||
      (BitVec.ofBool st.resf).setWidth 32 <<< 2 ||| (BitVec.ofBool st.x5).setWidth 32 <<< 3 |||
      st.ecode.setWidth 32 <<< 8 ||| st.efield.setWidth 32 <<< 16 ||| st.sxc.setWidth 32 <<< 24 :=
  or_reverse _ _ _ _ _ _ _

/-- STATUS reads as the sum of its fields at their places (R23). -/
theorem toNat_statusWord (st : Status) : st.word.toNat =
    st.err.toNat + 2 ^ 1 * st.serr.toNat + 2 ^ 2 * st.resf.toNat + 2 ^ 3 * st.x5.toNat + 2 ^ 8 * st.ecode.toNat +
      2 ^ 16 * st.efield.toNat + 2 ^ 24 * st.sxc.toNat := by
  have herr : ((BitVec.ofBool st.err).setWidth 32).toNat = (BitVec.ofBool st.err).toNat :=
    BitVec.toNat_setWidth_of_le (by decide)
  have hserr := toNat_or_shiftLeft (k := 1) (BitVec.ofBool st.serr) (a := (BitVec.ofBool st.err).setWidth 32) (by omega)
    (by decide)
  have hresf := toNat_or_shiftLeft (k := 2) (BitVec.ofBool st.resf) (by rw [hserr]; omega) (by decide)
  have hx5 := toNat_or_shiftLeft (k := 3) (BitVec.ofBool st.x5) (by rw [hresf]; omega) (by decide)
  have hecode := toNat_or_shiftLeft (k := 8) st.ecode (by rw [hx5]; omega) (by decide)
  have hefield := toNat_or_shiftLeft (k := 16) st.efield (by rw [hecode]; omega) (by decide)
  have hsxc := toNat_or_shiftLeft (k := 24) st.sxc (by rw [hefield]; omega) (by decide)
  rw [statusWord_eq, hsxc, hefield, hecode, hx5, hresf, hserr, herr]
  simp only [BitVec.toNat_ofBool]

/-- Every register reads as its number (R21 to R32). -/
theorem readReg_eq (s : State) (r : Reg) : s.readReg r = BitVec.ofNat 32 (regValue s r) := by
  apply BitVec.eq_of_toNat_eq
  cases r with
  | status =>
    have hword := toNat_statusWord s.status
    rw [regValue, BitVec.toNat_ofNat, State.readReg, Nat.mod_eq_of_lt (by omega)]
    exact hword
  | valLo | resLo => simp [State.readReg, regValue, BitVec.extractLsb'_toNat]
  | valHi | resHi => simp [State.readReg, regValue, BitVec.extractLsb'_toNat, Nat.shiftRight_eq_div_pow]
  | _ => simp [State.readReg, regValue]

/-- Settles O54: at a register's offset stands that register, and only 4 bytes of it are read. -/
theorem registersReadAtTheirOffsets : Obligations.RegistersReadAtTheirOffsets := by
  unfold Obligations.RegistersReadAtTheirOffsets
  intro s n rest r hqueue
  have hread : s.memRead (regOffset r) n = if n = 4 then some (s.readReg r) else none := by
    rw [State.memRead, region_regOffset]
  refine ⟨fun hn => step_of_read hqueue ?_, fun hn => step_of_refused_read hqueue ?_⟩
  · rw [hread, if_pos hn, readReg_eq]
  · rw [hread, if_neg hn]

/-! ## Register writes -/

theorem memWrite_regOffset (s : State) (r : Reg) (v : Word) : s.memWrite (regOffset r) 4 v = s.writeReg r v := by
  rw [State.memWrite, region_regOffset]
  exact if_pos rfl

/-- An illegal value, or a register the host may not write, is refused (R37). -/
theorem writeReg_of_not_legal {s : State} {r : Reg} {v : Word} (hstatus : r ≠ .status) (h : ¬ writeLegal v.toNat r) :
    s.writeReg r v = none := by
  cases r with
  | status => exact absurd rfl hstatus
  | valLo | valHi => exact absurd trivial h
  | addr | raddr | cnt | wval | crc | rxlen | dlen | vcnt =>
    exact if_neg fun hv => h (show v.toNat ≤ _ by omega)
  | _ => rfl

theorem toNat_append_eq_add {n m : Nat} (high : BitVec n) (low : BitVec m) :
    (high ++ low).toNat = 2 ^ m * high.toNat + low.toNat := by
  rw [BitVec.toNat_append, ← Nat.shiftLeft_add_eq_or_of_lt low.isLt, Nat.shiftLeft_eq, Nat.mul_comm]

/-- The two words of VAL (R27). -/
theorem toNat_extract_low (v : DWord) : (v.extractLsb' 0 32).toNat = v.toNat % 2 ^ 32 := by
  rw [BitVec.extractLsb'_toNat, Nat.shiftRight_zero]

theorem toNat_extract_high (v : DWord) : (v.extractLsb' 32 32).toNat = v.toNat / 2 ^ 32 := by
  rw [BitVec.extractLsb'_toNat, Nat.shiftRight_eq_div_pow]
  omega

/-- A legal value is stored, reads back, and nothing else changes (R37). -/
theorem writeReg_of_legal {s : State} {r : Reg} {v : Word} (h : writeLegal v.toNat r) :
    ∃ t, s.writeReg r v = some t ∧ regValue t r = v.toNat ∧ (∀ r', r' ≠ r → regValue t r' = regValue s r') ∧
      t.mem = s.mem ∧ t.epoch = s.epoch := by
  have hv := v.isLt
  cases r with
  | id | cmd | status | eexp | eact | resLo | resHi | txlen => exact h.elim
  | addr | raddr | cnt | wval | crc =>
    have hlt := Nat.lt_succ_of_le (show v.toNat ≤ _ from h)
    refine ⟨_, if_pos hlt, Nat.mod_eq_of_lt hlt, fun r' hr => ?_, rfl, rfl⟩
    cases r' <;> trivial
  | rxlen | dlen | vcnt =>
    refine ⟨_, if_pos h, Nat.mod_eq_of_lt (Nat.lt_succ_of_le h), fun r' hr => ?_, rfl, rfl⟩
    cases r' <;> trivial
  | valLo =>
    have hval := toNat_append_eq_add (s.val.extractLsb' 32 32) v
    rw [toNat_extract_high] at hval
    refine ⟨_, rfl, ?_, fun r' hr => ?_, rfl, rfl⟩
    · simp only [regValue, hval]
      omega
    · cases r' with
      | valLo => exact absurd rfl hr
      | valHi =>
        simp only [regValue, hval]
        omega
      | _ => rfl
  | valHi =>
    have hval := toNat_append_eq_add v (s.val.extractLsb' 0 32)
    rw [toNat_extract_low] at hval
    refine ⟨_, rfl, ?_, fun r' hr => ?_, rfl, rfl⟩
    · simp only [regValue, hval]
      omega
    · cases r' with
      | valHi => exact absurd rfl hr
      | valLo =>
        simp only [regValue, hval]
        omega
      | _ => rfl

/-- The values STATUS takes are 0 and 2 (R23). -/
theorem and_statusMask_eq_zero_iff (v : Word) : v &&& 0xFFFFFFFD = 0 ↔ v = 0 ∨ v = 2 := by
  constructor
  · intro h
    have hsplit : v = v &&& 0xFFFFFFFD ||| v &&& .twoPow 32 1 := by
      rw [← BitVec.and_or_distrib_left]
      exact BitVec.and_allOnes.symm
    rw [h, BitVec.and_twoPow] at hsplit
    rw [hsplit]
    split
    · exact .inr rfl
    · exact .inl rfl
  · rintro (rfl | rfl) <;> rfl

/-- A CMD write is accepted whatever its word and its command's outcome (R37). -/
theorem command_accepts (s : State) (w : Word) : ∃ t, s.command w = .next t ∧ t.resp = .writeOk := by
  rw [State.command]
  cases decode w with
  | error err => exact ⟨_, rfl, rfl⟩
  | ok i =>
    obtain ⟨t, hexec⟩ := nothingEverStopsTheMachine.1 i s.accept
    obtain ⟨-, -, -, -, hresp⟩ := commandsKeepHostRegisters i _ t hexec
    exact ⟨t, hexec, hresp⟩

theorem region_regOffset_ne_cmd {r : Reg} (h : r ≠ .cmd) : ¬ (region (regOffset r) = .reg .cmd ∧ 4 = 4) := by
  rw [region_regOffset]
  exact fun hr => h (Region.reg.inj hr.1)

/-- Settles O55: the value is checked, stored and read back register by register; STATUS by its mask; CMD by its outcome. -/
theorem registerWritesAreCheckedAndStored : Obligations.RegisterWritesAreCheckedAndStored := by
  unfold Obligations.RegisterWritesAreCheckedAndStored
  refine ⟨fun s r v rest hqueue hcmd hstatus => ?_, fun s v rest hqueue => ?_, fun s v rest hqueue => ?_⟩
  · have hnot := region_regOffset_ne_cmd hcmd
    refine ⟨fun hillegal => ?_, fun hlegal => ?_⟩
    · refine step_of_refused_write hqueue hnot ?_
      rw [memWrite_regOffset, writeReg_of_not_legal hstatus hillegal]
    · obtain ⟨t, hwrite, hvalue, hothers, hmem, hepoch⟩ := writeReg_of_legal (s := s) hlegal
      rw [← memWrite_regOffset] at hwrite
      have hkeep (r' : Reg) : regValue { t with queue := rest, resp := .writeOk } r' = regValue t r' := by
        cases r' <;> rfl
      exact ⟨_, step_of_write hqueue hnot hwrite, rfl, rfl, (hkeep r).trans hvalue,
        fun r' hr => (hkeep r').trans (hothers r' hr), hmem, hepoch⟩
  · have hnot := region_regOffset_ne_cmd (r := .status) nofun
    have hmem := memWrite_regOffset s .status v
    rw [State.writeReg] at hmem
    refine ⟨?_, ?_, fun hzero htwo => ?_⟩
    · rintro rfl
      rw [step_of_write hqueue hnot hmem]
      simp
    · rintro rfl
      rw [step_of_write hqueue hnot hmem]
      simp
    · refine step_of_refused_write hqueue hnot (hmem.trans (if_neg ?_))
      rw [and_statusMask_eq_zero_iff, not_or]
      exact ⟨hzero, htwo⟩
  · rw [step_of_cmdWrite hqueue]
    exact command_accepts _ v

/-! ## Buffers -/

/-- The bus word of four bytes has the first in its lowest lane (R63). -/
theorem ofLe4_eq_append (b0 b1 b2 b3 : Byte) : ofLe4 b0 b1 b2 b3 = b3 ++ b2 ++ b1 ++ b0 := by
  have h0 : (b0.setWidth 32).toNat = b0.toNat := BitVec.toNat_setWidth_of_le (by decide)
  have h1 := toNat_or_shiftLeft (k := 8) b1 (a := b0.setWidth 32) (by omega) (by decide)
  have h2 := toNat_or_shiftLeft (k := 16) b2 (by rw [h1]; omega) (by decide)
  have h3 := toNat_or_shiftLeft (k := 24) b3 (by rw [h2]; omega) (by decide)
  apply BitVec.eq_of_toNat_eq
  rw [ofLe4, h3, h2, h1, h0, toNat_append_eq_add, toNat_append_eq_add, toNat_append_eq_add]
  omega

theorem memRead_of_buffer (s : State) {off : Nat} (hlo : 0x100 ≤ off) (hhi : off < 0x400) (n : Nat) :
    s.memRead off n = s.readBuf off n := by
  rw [State.memRead]
  by_cases htxb : off < 0x200
  · rw [region_txb hlo htxb]
  by_cases hrxb : off < 0x300
  · rw [region_rxb (by omega) hrxb]
  · rw [region_dbuf (by omega) hhi]

theorem memWrite_of_buffer (s : State) {off : Nat} (hlo : 0x200 ≤ off) (hhi : off < 0x400) (n : Nat) (v : Word) :
    s.memWrite off n v = s.writeBuf off n v := by
  rw [State.memWrite]
  by_cases hrxb : off < 0x300
  · rw [region_rxb hlo hrxb]
  · rw [region_dbuf (by omega) hhi]

theorem memWrite_of_txb (s : State) {off : Nat} (hlo : 0x100 ≤ off) (hhi : off < 0x200) (n : Nat) (v : Word) :
    s.memWrite off n v = none := by
  rw [State.memWrite, region_txb hlo hhi]

/-- A buffer takes accesses of 1 byte and aligned ones of 4 (R63). -/
theorem readBuf_eq_none {off n : Nat} (h : (n ≠ 1 ∧ n ≠ 4) ∨ (n = 4 ∧ off % 4 ≠ 0)) (s : State) :
    s.readBuf off n = none := by
  rw [State.readBuf, if_neg (by omega), if_neg (by omega)]

theorem writeBuf_eq_none {off n : Nat} (h : (n ≠ 1 ∧ n ≠ 4) ∨ (n = 4 ∧ off % 4 ≠ 0)) (s : State) (v : Word) :
    s.writeBuf off n v = none := by
  rw [State.writeBuf, if_neg (by omega), if_neg (by omega)]

/-- Registers stand at aligned offsets below 0x48 only (R60, R62). -/
theorem lt_and_aligned_of_reg {off : Nat} {r : Reg} (h : region off = .reg r) : off < 0x48 ∧ off % 4 = 0 := by
  obtain ⟨hlt, haligned, -⟩ | hr | ⟨-, -, hr⟩ | ⟨-, -, hr⟩ | ⟨-, -, hr⟩ | ⟨-, -, hr⟩ | ⟨-, -, hr⟩ := region_cases off
  · exact ⟨hlt, haligned⟩
  all_goals
    rw [hr] at h
    cases h

theorem region_ne_cmd {off : Nat} (h : 0x48 ≤ off) (n : Nat) : ¬ (region off = .reg .cmd ∧ n = 4) := fun hcmd =>
  Nat.not_lt.2 h (lt_and_aligned_of_reg hcmd.1).1

/-- Settles O56: the buffers' reads, by width and alignment. -/
theorem bufferReadsAreLittleEndian : Obligations.BufferReadsAreLittleEndian := by
  unfold Obligations.BufferReadsAreLittleEndian
  intro s off n rest hqueue hlo hhi
  have hread := memRead_of_buffer s hlo hhi n
  refine ⟨fun hn => step_of_read hqueue ?_, fun hn haligned => step_of_read hqueue ?_,
    fun hbad => step_of_refused_read hqueue (hread.trans (readBuf_eq_none hbad s))⟩
  · rw [hread, State.readBuf, if_pos hn]
  · rw [hread, State.readBuf, if_neg (by omega), if_pos ⟨hn, haligned⟩, State.wordAt, ofLe4_eq_append]

/-- Settles O57: the buffers' writes, by window, width and alignment. -/
theorem bufferWritesStoreOnlyTheirBytes : Obligations.BufferWritesStoreOnlyTheirBytes := by
  unfold Obligations.BufferWritesStoreOnlyTheirBytes
  intro s off n v rest hqueue hlo hhi
  have hnot := region_ne_cmd (show 0x48 ≤ off by omega) n
  refine ⟨fun hlo' hn => ?_, fun hlo' hn haligned => ?_, fun hbad => step_of_refused_write hqueue hnot ?_⟩
  · have hwrite : s.memWrite off n v = some (s.store off [byteOf v 0]) := by
      rw [memWrite_of_buffer s hlo' hhi, State.writeBuf, if_pos hn]
    exact ⟨_, step_of_write hqueue hnot hwrite, storedOnly_of_mem_eq rfl rfl, rfl⟩
  · have hwrite : s.memWrite off n v = some (s.store off (le4 v)) := by
      rw [memWrite_of_buffer s hlo' hhi, State.writeBuf, if_neg (by omega), if_pos ⟨hn, haligned⟩]
    exact ⟨_, step_of_write hqueue hnot hwrite, storedOnly_of_mem_eq rfl rfl, rfl⟩
  · by_cases htxb : off < 0x200
    · exact memWrite_of_txb s hlo htxb n v
    · rw [memWrite_of_buffer s (by omega) hhi, writeBuf_eq_none (by omega)]

/-! ## Tables -/

theorem wordAt_store_same (s : State) (a : Nat) (v : Word) : (s.store a (le4 v)).wordAt a = v := by
  have hbyte (k : Nat) (hk : k < 4) : (s.store a (le4 v)).byteAt (a + k) = (le4 v)[k] := s.byteAt_store_of_inside hk
  rw [State.wordAt, hbyte 1 (by decide), hbyte 2 (by decide), hbyte 3 (by decide)]
  exact (congrArg (ofLe4 · _ _ _) (hbyte 0 (by decide))).trans (ofLe4_byteOf v)

theorem wordAt_store_of_outside (s : State) {a b : Nat} (v : Word) (h : b + 4 ≤ a ∨ a + 4 ≤ b) :
    (s.store a (le4 v)).wordAt b = s.wordAt b := by
  have hbyte (k : Nat) (hk : k < 4) : (s.store a (le4 v)).byteAt (b + k) = s.byteAt (b + k) :=
    s.byteAt_store_of_outside (by simp only [le4, List.length_cons, List.length_nil]; omega)
  rw [State.wordAt, State.wordAt, hbyte 1 (by decide), hbyte 2 (by decide), hbyte 3 (by decide)]
  exact congrArg (ofLe4 · _ _ _) (hbyte 0 (by decide))

/-- The offset of an entry of VARR is an aligned one of its window (R31, R60). -/
theorem memWrite_varr (s : State) {k : Nat} (hk : k < 2048) (v : Word) :
    s.memWrite (0x2000 + 4 * k) 4 v = some (s.store (0x2000 + 4 * k) (le4 v)) := by
  rw [State.memWrite, region_varr (by omega) (by omega)]
  exact if_pos ⟨rfl, by omega⟩

theorem memRead_varr (s : State) {k : Nat} (hk : k < 2048) : s.memRead (0x2000 + 4 * k) 4 = some (s.varr k) := by
  rw [State.memRead, region_varr (by omega) (by omega)]
  exact if_pos ⟨rfl, by omega⟩

/-- The offset of an entry of CRCTAB is an aligned one of its window (R33, R60). -/
theorem memRead_crctab (s : State) {k : Nat} (hk : k < 256) :
    s.memRead (0x400 + 4 * k) 4 = some ((crcGenerated (BitVec.ofNat 8 k)).setWidth 32) := by
  have hindex : (0x400 + 4 * k - 0x400) / 4 = k := by omega
  rw [State.memRead, region_crctab (by omega) (by omega), ← crcTableFollowsTheProcedure]
  dsimp only [crctabBase]
  rw [hindex, if_pos ⟨rfl, by omega⟩]

/-- Settles O58: VARR's entries written and read, CRCTAB's read, and CRCTAB's writes refused. -/
theorem tableWindowsHoldWholeEntries : Obligations.TableWindowsHoldWholeEntries := by
  unfold Obligations.TableWindowsHoldWholeEntries
  refine ⟨fun s k v rest hk hqueue => ?_, fun s k rest hk hqueue => step_of_read hqueue (memRead_varr s hk),
    fun s k rest hk hqueue => step_of_read hqueue (memRead_crctab s hk), fun s off n v rest hlo hhi hqueue => ?_⟩
  · refine ⟨_, step_of_write hqueue (region_ne_cmd (by omega) 4) (memWrite_varr s hk v), ?_, fun j hj => ?_,
      fun a ha => ?_, rfl⟩
    · exact wordAt_store_same s (varrBase + 4 * k) v
    · exact wordAt_store_of_outside s (a := 0x2000 + 4 * k) (b := 0x2000 + 4 * j) v (by omega)
    · exact s.byteAt_store_of_outside ha
  · refine step_of_refused_write hqueue (region_ne_cmd (by omega) n) ?_
    rw [State.memWrite, region_crctab hlo hhi]

/-! ## The rest of the map -/

/-- The accesses no window takes (R60 to R62). -/
def NotInMap (off n : Nat) : Prop :=
  (0x48 ≤ off ∧ off < 0x100) ∨ (0x800 ≤ off ∧ off < 0x2000) ∨ 0x4000 ≤ off ∨ (n ≠ 1 ∧ n ≠ 4) ∨
    ((off < 0x48 ∨ (0x400 ≤ off ∧ off < 0x4000)) ∧ (n ≠ 4 ∨ off % 4 ≠ 0))

theorem memRead_of_notInMap {off n : Nat} (h : NotInMap off n) (s : State) : s.memRead off n = none := by
  rw [NotInMap] at h
  rw [State.memRead]
  obtain ⟨hlt, haligned, r, hr⟩ | hr | ⟨hlo, hhi, hr⟩ | ⟨hlo, hhi, hr⟩ | ⟨hlo, hhi, hr⟩ | ⟨hlo, hhi, hr⟩ |
    ⟨hlo, hhi, hr⟩ := region_cases off <;> rw [hr]
  case inl => exact if_neg (by omega)
  case inr.inr.inl | inr.inr.inr.inl | inr.inr.inr.inr.inl => exact readBuf_eq_none (by omega) s
  case inr.inr.inr.inr.inr.inl | inr.inr.inr.inr.inr.inr => exact if_neg (by omega)

theorem memWrite_of_notInMap {off n : Nat} (h : NotInMap off n) (s : State) (v : Word) : s.memWrite off n v = none := by
  rw [NotInMap] at h
  rw [State.memWrite]
  obtain ⟨hlt, haligned, r, hr⟩ | hr | ⟨hlo, hhi, hr⟩ | ⟨hlo, hhi, hr⟩ | ⟨hlo, hhi, hr⟩ | ⟨hlo, hhi, hr⟩ |
    ⟨hlo, hhi, hr⟩ := region_cases off <;> rw [hr]
  case inl => exact if_neg (by omega)
  case inr.inr.inr.inl | inr.inr.inr.inr.inl => exact writeBuf_eq_none (by omega) s v
  case inr.inr.inr.inr.inr.inr => exact if_neg (by omega)

/-- Settles O59: at none of these accesses does a window answer. -/
theorem restOfTheMapIsRefused : Obligations.RestOfTheMapIsRefused := by
  unfold Obligations.RestOfTheMapIsRefused
  intro s off n rest hrest
  have hrest : NotInMap off n := hrest
  refine ⟨fun hqueue => step_of_refused_read hqueue (memRead_of_notInMap hrest s),
    fun v hqueue => step_of_refused_write hqueue ?_ (memWrite_of_notInMap hrest s v)⟩
  rintro ⟨hcmd, hn⟩
  have hreg := lt_and_aligned_of_reg hcmd
  rw [NotInMap] at hrest
  omega

end Sys2Proof
end

section
/-! PROOFS. The host's load statements, `wr64` and `chk` (30_encoding.md R93). -/

namespace Sys2Proof

open Sys2Proof.Machine Sys2Proof.Safety

theorem offset_eq_regOffset (r : Reg) : r.offset = regOffset r := by
  cases r <;> rfl

/-! ## Taking steps one after another -/

theorem steps_succ {s t : State} (h : step s = .next t) (n : Nat) : steps (n + 1) s = steps n t := by
  rw [steps, h]

theorem steps_add {s t : State} {m : Nat} (h : steps m s = .next t) (n : Nat) : steps (m + n) s = steps n t := by
  induction m generalizing s with
  | zero =>
    rw [steps, Host.Outcome.next.injEq] at h
    rw [Nat.zero_add, h]
  | succ m ih =>
    obtain ⟨u, hu⟩ := nothingEverStopsTheMachine.2 s
    rw [steps_succ hu] at h
    rw [Nat.succ_add, steps_succ hu, ih h]

/-! ## Loading a list -/

theorem storedOnly_append {s t u : State} {base : Nat} {xs ys : List Byte} (hst : StoredOnly s t base xs)
    (htu : StoredOnly t u (base + xs.length) ys) : StoredOnly s u base (xs ++ ys) := by
  intro a
  rw [htu a, hst a]
  rcases Nat.lt_or_ge a base with hlow | hbase
  · rw [if_neg (by omega), if_neg (by omega), if_neg (by omega)]
  rcases Nat.lt_or_ge a (base + xs.length) with hxs | hxs
  · rw [if_neg (by omega), if_pos hbase, if_pos hbase, List.getElem?_append_left (by omega)]
  · rw [if_pos hxs, if_pos hbase, if_pos hbase, List.getElem?_append_right (by omega), Nat.sub_sub,
      List.getElem?_eq_none (l := xs) (by omega), Option.getD_none]

/-- Serving these events stores the list at its place and changes nothing else of the block. -/
def Loads (es : List HostEvent) (base : Nat) (bs : List Byte) : Prop :=
  ∀ (s : State) (rest : List HostEvent), ∃ t r, steps es.length { s with queue := es ++ rest } = .next t ∧
    StoredOnly s t base bs ∧ t = { s with queue := rest, mem := t.mem, resp := r }

theorem Loads.nil (base : Nat) : Loads [] base [] := fun s rest =>
  ⟨_, s.resp, rfl, fun a => by simp only [List.getElem?_nil, Option.getD_none, ite_self]; rfl, rfl⟩

theorem Loads.cons {e : HostEvent} {es : List HostEvent} {base : Nat} {xs ys : List Byte}
    (he : ∀ (s : State) (q : List HostEvent),
      step { s with queue := e :: q } = .next { s.store base xs with queue := q, resp := .writeOk })
    (h : Loads es (base + xs.length) ys) : Loads (e :: es) base (xs ++ ys) := by
  intro s rest
  obtain ⟨t, r, hsteps, hstored, ht⟩ := h { s.store base xs with resp := .writeOk } rest
  refine ⟨t, r, (steps_succ (he s (es ++ rest)) _).trans hsteps, ?_, ht⟩
  have hfirst : StoredOnly s { s.store base xs with resp := .writeOk } base xs := storedOnly_of_mem_eq rfl rfl
  exact storedOnly_append hfirst hstored

/-- A list loaded, one more access is served on the state with the list. -/
theorem Loads.then_write {es : List HostEvent} {base : Nat} {bs : List Byte} (h : Loads es base bs) {e : HostEvent}
    {f : State → State} (he : ∀ u : State, u.queue = [e] → step u = .next { f u with queue := [], resp := .writeOk })
    (s : State) : ∃ u r, steps (es ++ [e]).length { s with queue := es ++ [e] } =
        .next { f u with queue := [], resp := .writeOk } ∧
      StoredOnly s u base bs ∧ u = { s with queue := [e], mem := u.mem, resp := r } := by
  obtain ⟨u, r, hsteps, hstored, hu⟩ := h s [e]
  refine ⟨u, r, ?_, hstored, hu⟩
  rw [List.length_append, steps_add hsteps, List.length_singleton, steps_succ (he u (congrArg State.queue hu))]
  rfl

theorem byteOf_setWidth_zero (v : Byte) : byteOf (v.setWidth 32) 0 = v := by
  apply BitVec.eq_of_toNat_eq
  rw [byteOf_toNat, BitVec.toNat_setWidth_of_le (by decide)]
  omega

/-- A pending write that stores bytes is served in one step. -/
theorem step_of_pending_store (s : State) (q : List HostEvent) {a n : Nat} {v : Word} {bs : List Byte} (ha : 0x48 ≤ a)
    (hwrite : ∀ u : State, u.memWrite a n v = some (u.store a bs)) :
    step { s with queue := .write a n v :: q } = .next { s.store a bs with queue := q, resp := .writeOk } := by
  have hstep := step_of_write (s := { s with queue := .write a n v :: q }) rfl (region_ne_cmd ha n) (hwrite _)
  exact hstep

/-- A 1-byte write of RXB or DBUF stores its byte (R63). -/
theorem memWrite_byte (s : State) {a : Nat} (hlo : 0x200 ≤ a) (hhi : a < 0x400) (v : Byte) :
    s.memWrite a 1 (v.setWidth 32) = some (s.store a [v]) := by
  rw [memWrite_of_buffer s hlo hhi, State.writeBuf, if_pos rfl, byteOf_setWidth_zero]

theorem loads_loadBytes (b : HostBuffer) {i : Nat} {l : List Byte} (h : i + l.length ≤ 256) :
    Loads (loadBytes b i l) (b.base + i) l := by
  have hbase : 0x200 ≤ b.base ∧ b.base ≤ 0x300 := by cases b <;> decide
  induction l generalizing i with
  | nil => exact .nil _
  | cons v l ih =>
    rw [List.length_cons] at h
    refine .cons (xs := [v]) (fun s q => step_of_pending_store s q (by omega) fun u => ?_) (ih (by omega))
    exact memWrite_byte u (by omega) (by omega) v

theorem loads_loadEntries {i : Nat} {l : List Word} (h : i + l.length ≤ 2048) :
    Loads (loadEntries i l) (0x2000 + 4 * i) (l.flatMap le4) := by
  induction l generalizing i with
  | nil => exact .nil _
  | cons v l ih =>
    rw [List.length_cons] at h
    refine .cons (xs := le4 v) (fun s q => step_of_pending_store s q ?_ fun u => ?_) (ih (by omega))
    · exact show 0x48 ≤ 0x2000 + 4 * i by omega
    · exact memWrite_varr u (by omega) v

/-! ## The length registers -/

theorem toNat_ofNat_of_le {n : Nat} (h : n ≤ 2048) : (BitVec.ofNat 32 n).toNat = n := by
  rw [BitVec.toNat_ofNat, Nat.mod_eq_of_lt (by omega)]

theorem writeReg_dlen (u : State) {n : Nat} (h : n ≤ 256) :
    u.writeReg .dlen (BitVec.ofNat 32 n) = some { u with dlen := Fin.ofNat 257 n } := by
  rw [State.writeReg, toNat_ofNat_of_le (by omega), if_pos h]

theorem writeReg_rxlen (u : State) {n : Nat} (h : n ≤ 256) :
    u.writeReg .rxlen (BitVec.ofNat 32 n) = some { u with rxlen := Fin.ofNat 257 n } := by
  rw [State.writeReg, toNat_ofNat_of_le (by omega), if_pos h]

theorem writeReg_vcnt (u : State) {n : Nat} (h : n ≤ 2048) :
    u.writeReg .vcnt (BitVec.ofNat 32 n) = some { u with vcnt := Fin.ofNat 2049 n } := by
  rw [State.writeReg, toNat_ofNat_of_le h, if_pos h]

/-- An accepted register write is served in one step. -/
theorem step_of_regWrite {u v : State} {r : Reg} {w : Word} {q : List HostEvent}
    (hqueue : u.queue = .write r.offset 4 w :: q) (hr : r ≠ .cmd) (h : u.writeReg r w = some v) :
    step u = .next { v with queue := q, resp := .writeOk } := by
  rw [offset_eq_regOffset] at hqueue
  exact step_of_write hqueue (region_regOffset_ne_cmd hr) (by rw [memWrite_regOffset, h])

/-! ## The statements -/

/-- Entries stored at the beginning of VARR read back, and the rest of storage keeps its bytes (R31). -/
theorem varr_of_storedOnly {s t : State} {l : List Word} (h : StoredOnly s t 0x2000 (l.flatMap le4)) (k : Nat) :
    t.varr k = (l[k]?).getD (s.varr k) := by
  have hput : StoredOnly s (s.putList l) 0x2000 (l.flatMap le4) := storedOnly_of_mem_eq rfl rfl
  rw [← s.varr_putList l k]
  exact varr_congr (fun a _ => (h a).trans (hput a).symm) k

theorem byteAt_of_storedOnly_outside {s t : State} {base : Nat} {bs : List Byte} (h : StoredOnly s t base bs) {a : Nat}
    (ha : a < base ∨ base + bs.length ≤ a) : t.byteAt a = s.byteAt a := by
  rw [h a, ← s.byteAt_store base bs a, s.byteAt_store_of_outside ha]

/-- Writing the low word and then the high word of VAL leaves both (R27). -/
theorem append_extract_words (v : DWord) (high : Word) :
    v.extractLsb' 32 32 ++ (high ++ v.extractLsb' 0 32 : DWord).extractLsb' 0 32 = v := by
  apply BitVec.eq_of_toNat_eq
  rw [toNat_append_eq_add, toNat_extract_high, toNat_extract_low, toNat_append_eq_add, toNat_extract_low]
  omega

/-- Settles O60: a load is its stores one after another and then its length; `wr64` is two register writes. -/
theorem hostStatementsLoadAndCheck : Obligations.HostStatementsLoadAndCheck := by
  unfold Obligations.HostStatementsLoadAndCheck
  refine ⟨fun l s hl => ?_, fun l s hl => ?_, fun l s hl => ?_, fun v s => ?_, fun s rest hqueue => ?_⟩
  · obtain ⟨u, r, hsteps, hstored, hu⟩ := (loads_loadBytes .dbuf (i := 0) (l := l) (by omega)).then_write
      (f := fun u => { u with dlen := Fin.ofNat 257 l.length })
      (fun u hq => step_of_regWrite (r := .dlen) hq nofun (writeReg_dlen u hl)) s
    exact ⟨_, _, rfl, hsteps, hstored,
      congrArg (fun x => { x with dlen := Fin.ofNat 257 l.length, queue := [], resp := .writeOk }) hu⟩
  · obtain ⟨u, r, hsteps, hstored, hu⟩ := (loads_loadBytes .rxb (i := 0) (l := l) (by omega)).then_write
      (f := fun u => { u with rxlen := Fin.ofNat 257 l.length })
      (fun u hq => step_of_regWrite (r := .rxlen) hq nofun (writeReg_rxlen u hl)) s
    exact ⟨_, _, rfl, hsteps, hstored,
      congrArg (fun x => { x with rxlen := Fin.ofNat 257 l.length, queue := [], resp := .writeOk }) hu⟩
  · obtain ⟨u, r, hsteps, hstored, hu⟩ := (loads_loadEntries (i := 0) (l := l) (by omega)).then_write
      (f := fun u => { u with vcnt := Fin.ofNat 2049 l.length })
      (fun u hq => step_of_regWrite (r := .vcnt) hq nofun (writeReg_vcnt u hl)) s
    exact ⟨_, _, rfl, hsteps, varr_of_storedOnly hstored,
      fun a ha => byteAt_of_storedOnly_outside hstored (by rwa [length_flatMap_le4]),
      congrArg (fun x => { x with vcnt := Fin.ofNat 2049 l.length, queue := [], resp := .writeOk }) hu⟩
  · refine ⟨_, rfl, ?_⟩
    have hlow (u : State) (e : HostEvent) (hq : u.queue = [.write Reg.valLo.offset 4 (v.extractLsb' 0 32), e]) :=
      step_of_regWrite (r := .valLo) hq nofun rfl
    have hhigh (u : State) (hq : u.queue = [.write Reg.valHi.offset 4 (v.extractLsb' 32 32)]) :=
      step_of_regWrite (r := .valHi) hq nofun rfl
    rw [List.length_cons, List.length_singleton, steps_succ (hlow _ _ rfl), steps_succ (hhigh _ rfl), steps]
    have hval := append_extract_words v (s.val.extractLsb' 32 32)
    simp only [hval]
  · have hstatus := readReg_eq s .status
    rw [step_of_cons hqueue, ← hstatus]
    rfl

end Sys2Proof
end

section
/-! PROOFS. The CRC of byte lists (40_crc.md R101 to R104, 42_frame_codec.md R182). A step of the CRC is eight of the
generation procedure's on the register with the byte exclusive-ored in, and each of those is reversible; so a step is
injective in the register and in the byte. -/

namespace Sys2Proof

open Sys2Proof.Machine Sys2Proof.Safety

/-! ## One bit -/

/-- What the bit shifted out exclusive-ors into the register (R100). -/
def crcTaps (low : Bool) : Half := if low then 0xA001 else 0

theorem crcTaps_xor (a b : Bool) : crcTaps (a ^^ b) = crcTaps a ^^^ crcTaps b := by
  cases a <;> cases b <;> rfl

theorem crcBit_eq (c : Half) : crcBit c = (c >>> 1) ^^^ crcTaps (c.getLsbD 0) := by
  rw [crcBit, crcTaps]
  split
  · rfl
  · exact BitVec.xor_zero.symm

/-- The procedure is linear over exclusive or. -/
theorem crcBit_xor (c d : Half) : crcBit (c ^^^ d) = crcBit c ^^^ crcBit d := by
  rw [crcBit_eq, crcBit_eq, crcBit_eq, BitVec.ushiftRight_xor_distrib, BitVec.getLsbD_xor, crcTaps_xor]
  ac_rfl

/-- A bit of the procedure can be undone: the top bit of the result tells the bit shifted out. -/
theorem crcBit_injective : Function.Injective crcBit := by
  intro c d h
  have hlow (x : Half) : (crcBit x).getLsbD 15 = x.getLsbD 0 := by
    rw [crcBit_eq, BitVec.getLsbD_xor, BitVec.getLsbD_ushiftRight]
    cases x.getLsbD 0 <;> simp [crcTaps]
  have hzero : c.getLsbD 0 = d.getLsbD 0 := by rw [← hlow c, ← hlow d, h]
  have hshift : c >>> 1 = d >>> 1 := by
    rw [crcBit_eq, crcBit_eq, hzero] at h
    exact (BitVec.xor_left_inj _).1 h
  refine BitVec.eq_of_getLsbD_eq fun i hi => ?_
  cases i with
  | zero => exact hzero
  | succ i =>
    have hbit := congrArg (·.getLsbD i) hshift
    simpa [Nat.add_comm] using hbit

/-! ## One byte -/

/-- Eight bits of the procedure (R100). -/
def crcByteOf (c : Half) : Half := crcBit (crcBit (crcBit (crcBit (crcBit (crcBit (crcBit (crcBit c)))))))

theorem crcGenerated_eq (i : Byte) : crcGenerated i = crcByteOf (i.setWidth 16) := rfl

theorem crcByteOf_xor (c d : Half) : crcByteOf (c ^^^ d) = crcByteOf c ^^^ crcByteOf d := by
  simp only [crcByteOf, crcBit_xor]

theorem crcByteOf_injective : Function.Injective crcByteOf := fun c d h => by
  simpa only [crcByteOf, crcBit_injective.eq_iff] using h

/-- Eight bits shift a register whose low byte is 0. -/
theorem crcByteOf_shiftLeft (b : Byte) : crcByteOf (b.setWidth 16 <<< 8) = b.setWidth 16 := by
  revert b
  decide

theorem setWidth_byteOf_one (c : Half) : (byteOf c 1).setWidth 16 = c >>> 8 := by
  apply BitVec.eq_of_toNat_eq
  rw [BitVec.toNat_setWidth_of_le (by decide), byteOf_toNat, BitVec.toNat_ushiftRight, Nat.shiftRight_eq_div_pow]
  omega

theorem byteOf_zero (c : Half) : byteOf c 0 = c.setWidth 8 := by
  apply BitVec.eq_of_toNat_eq
  rw [byteOf_toNat, BitVec.toNat_setWidth, Nat.mul_zero, Nat.pow_zero, Nat.div_one]

/-- A register is its high byte shifted up and its low byte. -/
theorem eq_high_xor_low (c : Half) : c = (byteOf c 1).setWidth 16 <<< 8 ^^^ (byteOf c 0).setWidth 16 := by
  rw [setWidth_byteOf_one, byteOf_zero]
  refine BitVec.eq_of_getLsbD_eq fun i hi => ?_
  rcases Nat.lt_or_ge i 8 with hlow | hhigh
  · simp [hlow, hi]
  · simp [Nat.not_lt.2 hhigh, hi, Nat.add_sub_cancel' hhigh]

/-- The step of R101 is eight bits of the procedure on the register with the byte in it. -/
theorem crcStep_eq_crcByteOf (c : Half) (b : Byte) : crcStep c b = crcByteOf (c ^^^ b.setWidth 16) := by
  have hsplit : c ^^^ b.setWidth 16 = (byteOf c 1).setWidth 16 <<< 8 ^^^ (c.setWidth 8 ^^^ b).setWidth 16 := by
    conv_lhs => rw [eq_high_xor_low c]
    rw [BitVec.setWidth_xor, BitVec.xor_assoc, byteOf_zero]
  rw [crcStep_eq_generated, hsplit, crcByteOf_xor, crcByteOf_shiftLeft, crcGenerated_eq, setWidth_byteOf_one]

theorem crcStep_left_injective (b : Byte) : Function.Injective fun c => crcStep c b := fun c d h => by
  simp only [crcStep_eq_crcByteOf] at h
  exact (BitVec.xor_left_inj _).1 (crcByteOf_injective h)

theorem crcStep_right_injective (c : Half) : Function.Injective (crcStep c) := fun a b h => by
  rw [crcStep_eq_crcByteOf, crcStep_eq_crcByteOf] at h
  have hwide := congrArg (BitVec.setWidth 8) ((BitVec.xor_right_inj _).1 (crcByteOf_injective h))
  simpa using hwide

/-! ## Lists -/

theorem foldl_crcStep_injective (l : List Byte) : Function.Injective fun c => l.foldl crcStep c := by
  induction l with
  | nil => exact Function.injective_id
  | cons b l ih => exact ih.comp (crcStep_left_injective b)

/-- Two lists that differ in one byte have different CRCs. -/
theorem specCrc_ne_of_byte_ne {xs ys : List Byte} {a b : Byte} (h : a ≠ b) :
    specCrc (xs ++ a :: ys) ≠ specCrc (xs ++ b :: ys) := by
  rw [← crc16_eq_specCrc, ← crc16_eq_specCrc, crc16, crc16, List.foldl_append, List.foldl_append, List.foldl_cons,
    List.foldl_cons]
  exact fun heq => h (crcStep_right_injective _ (foldl_crcStep_injective ys heq))

/-- The CRC of a list with its trailer is 0 (R102). -/
theorem specCrc_append_trailer (l : List Byte) : specCrc (l ++ crcTrailer (specCrc l)) = 0 := by
  have hlow (c : Half) : c ^^^ (byteOf c 0).setWidth 16 = (byteOf c 1).setWidth 16 <<< 8 := by
    have h := congrArg (· ^^^ (byteOf c 0).setWidth 16) (eq_high_xor_low c)
    rwa [BitVec.xor_assoc, BitVec.xor_self, BitVec.xor_zero] at h
  rw [← crc16_eq_specCrc, ← crc16_eq_specCrc, crc16, List.foldl_append, ← crc16]
  simp only [crcTrailer, List.foldl_cons, List.foldl_nil, crcStep_eq_crcByteOf]
  rw [hlow, crcByteOf_shiftLeft, BitVec.xor_self]
  rfl

/-! ## Byte by byte -/

/-- The state `s` with this in CRC, after some command completed (R253). -/
def doneWithCrc (s : State) (c : Half) : State :=
  { s with crc := c, status := doneStatus s s.status.resf, eexp := 0, eact := 0 }

theorem exec_crcInit_eq (s : State) : exec .crcInit s = .next (doneWithCrc s 0xFFFF) := by
  rw [exec_crcInit, ends_complete]
  rfl

theorem exec_crcByte_doneWithCrc (s : State) (c : Half) (b : Byte) :
    exec (.crcByte b) (doneWithCrc s c) = .next (doneWithCrc s (crcStep c b)) := by
  rw [exec_crcByte, ends_complete]
  rfl

/-- CRC_BYTE on each byte of a list goes on from the CRC so far (R104). -/
theorem execAll_crcByte (l : List Byte) (s : State) (c : Half) :
    execAll (l.map .crcByte) (doneWithCrc s c) = .next (doneWithCrc s (l.foldl crcStep c)) := by
  induction l generalizing c with
  | nil => rfl
  | cons b l ih => rw [List.map_cons, execAll, exec_crcByte_doneWithCrc, List.foldl_cons, ← ih]

theorem execAll_crcInit_crcByte (l : List Byte) (s : State) :
    execAll (.crcInit :: l.map .crcByte) s = .next (doneWithCrc s (specCrc l)) := by
  rw [execAll, exec_crcInit_eq, ← crc16_eq_specCrc, crc16, ← execAll_crcByte]

/-- Settles O26: the bytes one by one give the CRC of the list, of the list and its trailer as well. -/
theorem bytewiseCrcIsTheListCrc : Obligations.BytewiseCrcIsTheListCrc := by
  unfold Obligations.BytewiseCrcIsTheListCrc
  refine fun l s => ⟨execAll_crcInit_crcByte l s, (execAll_crcInit_crcByte _ s).trans ?_⟩
  have hzero := specCrc_append_trailer l
  rw [crcTrailer, byteOf, byteOf] at hzero
  rw [hzero]
  rfl

end Sys2Proof
end

section
/-! PROOFS. Frames built and parsed (42_frame_codec.md R174, R175, R180, R182). -/

namespace Sys2Proof

open Sys2Proof.Machine Sys2Proof.Safety

/-- A command that left ERR = 0 did not fail. -/
theorem not_fails_of_err {i : Instr} {s t : State} {ecode efield sxc : Byte} {exp act : Word}
    (hexec : exec i s = .next t) (herr : t.status.err = false) : ¬ Fails i s ecode efield exp act sxc := fun h => by
  rw [Fails, hexec, Host.Outcome.next.injEq] at h
  rw [h] at herr
  cases herr

/-! ## A byte of a frame changed -/

theorem byteAt_store_singleton_same (s : State) (a : Nat) (b : Byte) : (s.store a [b]).byteAt a = b := by
  simp

theorem byteAt_store_singleton_of_ne (s : State) {a x : Nat} (h : x ≠ a) (b : Byte) :
    (s.store a [b]).byteAt x = s.byteAt x :=
  s.byteAt_store_of_outside (by rw [List.length_singleton]; omega)

/-- A run of stored bytes around one of them. -/
theorem bytesAt_eq_append_cons (s : State) (base : Nat) {n k : Nat} (hk : k < n) :
    s.bytesAt base n = s.bytesAt base k ++ s.byteAt (base + k) :: s.bytesAt (base + k + 1) (n - k - 1) := by
  rw [← State.bytesAt_succ, ← bytesAt_add]
  congr 1
  omega

/-- Storing one byte inside a run of stored bytes replaces that byte. -/
theorem bytesAt_store_singleton (s : State) (base : Nat) {n k : Nat} (hk : k < n) (b : Byte) :
    (s.store (base + k) [b]).bytesAt base n =
      s.bytesAt base k ++ b :: s.bytesAt (base + k + 1) (n - k - 1) := by
  rw [bytesAt_eq_append_cons _ base hk, byteAt_store_singleton_same,
    bytesAt_congr fun j hj => byteAt_store_singleton_of_ne s (by omega) b,
    bytesAt_congr fun j hj => byteAt_store_singleton_of_ne s (by omega) b]

/-- The two bytes of a trailer are those of the CRC it carries (R102). -/
theorem append_bytes_inj {a b c d : Byte} : (a ++ b : Half) = c ++ d ↔ a = c ∧ b = d := by
  rw [← BitVec.toNat_inj, toNat_append_bytes, toNat_append_bytes, ← BitVec.toNat_inj, ← BitVec.toNat_inj]
  omega

/-- Settles O50: a changed data byte changes the computed CRC only, a changed trailer byte the received one only. -/
theorem corruptedByteFailsTheChecksum : Obligations.CorruptedByteFailsTheChecksum := by
  unfold Obligations.CorruptedByteFailsTheChecksum
  intro fc s k b hfc hlen hcrc hk hb
  have hkeep {a : Nat} (ha : a ≠ 0x200 + k) := byteAt_store_singleton_of_ne s ha b
  have hsame := byteAt_store_singleton_same s (0x200 + k) b
  have hne : specCrc ((s.store (0x200 + k) [b]).bytesAt 0x200 (s.rxlen.val - 2)) ≠
      (s.store (0x200 + k) [b]).byteAt (0x200 + s.rxlen.val - 1) ++
        (s.store (0x200 + k) [b]).byteAt (0x200 + s.rxlen.val - 2) := by
    rcases Nat.lt_or_ge k (s.rxlen.val - 2) with hdata | htrailer
    · rw [hkeep (by omega), hkeep (by omega), ← hcrc, bytesAt_store_singleton s 0x200 hdata,
        bytesAt_eq_append_cons s 0x200 hdata]
      exact specCrc_ne_of_byte_ne hb
    · rw [bytesAt_congr fun j hj => hkeep (by omega), hcrc, Ne, append_bytes_inj]
      rintro ⟨hhigh, hlow⟩
      rcases Nat.lt_or_ge k (s.rxlen.val - 1) with hk' | hk'
      · rw [show 0x200 + s.rxlen.val - 2 = 0x200 + k by omega, hsame] at hlow
        exact hb hlow.symm
      · rw [show 0x200 + s.rxlen.val - 1 = 0x200 + k by omega, hsame] at hhigh
        exact hb hhigh.symm
  obtain ⟨-, -, hcheck, -⟩ := parseRspChecksInOrderAndExtracts.2 fc (s.store (0x200 + k) [b])
  refine ⟨_, _, fun heq => hne ?_, hcheck hfc hlen hne⟩
  have hnarrow := congrArg (BitVec.setWidth 16) heq
  rwa [BitVec.setWidth_setWidth_of_le _ (by decide), BitVec.setWidth_setWidth_of_le _ (by decide), BitVec.setWidth_eq,
    BitVec.setWidth_eq] at hnarrow

/-! ## A built frame parsed -/

/-- The function codes of requests have no exception flag and fit 7 bits (R170). -/
theorem functionCode_byte : ∀ fc ∈ [1, 2, 3, 4, 5, 6, 15, 16],
    (BitVec.ofNat 8 fc).getLsbD 7 = false ∧ (BitVec.ofNat 8 fc).toNat % 128 = fc := by decide

/-- A CRC is its high byte and its low byte. -/
theorem append_extract_bytes (c : Half) : (c.extractLsb' 8 8 ++ c.extractLsb' 0 8 : Half) = c := by
  apply BitVec.eq_of_toNat_eq
  rw [toNat_append_bytes, BitVec.extractLsb'_toNat, BitVec.extractLsb'_toNat, Nat.shiftRight_eq_div_pow,
    Nat.shiftRight_zero]
  omega

/-- The bytes of a frame where PARSE_RSP reads them (R180). -/
theorem frame_parts {s : State} {n : Nat} {a f low high : Byte} {data : List Byte} (hn : data.length = n)
    (h : s.bytesAt 0x200 (n + 4) = [a, f] ++ data ++ [low, high]) :
    s.bytesAt 0x200 (n + 2) = [a, f] ++ data ∧ s.byteAt 0x200 = a ∧ s.byteAt 0x201 = f ∧ s.bytesAt 0x202 n = data ∧
      s.byteAt (0x200 + (n + 2)) = low ∧ s.byteAt (0x200 + (n + 3)) = high := by
  have htwo (base : Nat) : s.bytesAt base 2 = [s.byteAt base, s.byteAt (base + 1)] := rfl
  have hframe := (bytesAt_add s 0x200 (n + 2) 2).symm.trans h
  obtain ⟨hbody, htrailer⟩ := List.append_inj hframe (by simp [hn])
  have hpayload := (bytesAt_add s 0x200 2 n).symm.trans (Nat.add_comm 2 n ▸ hbody)
  obtain ⟨hhead, hdata⟩ := List.append_inj hpayload rfl
  rw [htwo, List.cons.injEq, List.cons.injEq] at hhead htrailer
  exact ⟨hbody, hhead.1, hhead.2.1, hdata, htrailer.1, htrailer.2.1⟩

/-- The frame in RXB and its length. -/
theorem withFrame_bytesAt (s : State) (l : List Byte) : (withFrame s l).bytesAt 0x200 l.length = l :=
  bytesAt_of_storedOnly (s := s) (storedOnly_of_mem_eq rfl rfl)

/-- PARSE_RSP of a frame with the address, the function code, the CRC and no exception flag takes its payload (R180). -/
theorem parseRsp_of_frame {s : State} {fc n : Nat} {data : List Byte} (hfc : fc ∈ [1, 2, 3, 4, 5, 6, 15, 16])
    (hn : data.length = n) (hlen : s.rxlen.val = n + 4)
    (hframe : s.bytesAt 0x200 (n + 4) = [s.addr, BitVec.ofNat 8 fc] ++ data ++
      [(specCrc ([s.addr, BitVec.ofNat 8 fc] ++ data)).extractLsb' 0 8,
        (specCrc ([s.addr, BitVec.ofNat 8 fc] ++ data)).extractLsb' 8 8]) :
    ∃ u, exec (.parseRsp fc) s = .next u ∧ u.status.err = false ∧ u.status.x5 = false ∧ u.dlen.val = n ∧
      u.bytesAt 0x300 n = data := by
  obtain ⟨hbody, haddr, hf, hdata, hlow, hhigh⟩ := frame_parts hn hframe
  obtain ⟨hflag, hseven⟩ := functionCode_byte fc hfc
  obtain ⟨-, -, -, -, -, -, -, hpass⟩ := parseRspChecksInOrderAndExtracts.2 fc s
  rw [hlen, Nat.add_sub_cancel, Nat.add_sub_assoc (by omega), Nat.add_sub_assoc (by omega)] at hpass
  have hcrc : specCrc (s.bytesAt 0x200 (n + 2)) = s.byteAt (0x200 + (n + 3)) ++ s.byteAt (0x200 + (n + 2)) := by
    rw [hbody, hlow, hhigh, append_extract_bytes]
  obtain ⟨u, hexec, hstored, hdlen, hu⟩ :=
    hpass hfc (by omega) hcrc haddr (by rw [hf, hflag]; nofun) (by rw [hf, hseven])
  have hstatus := congrArg State.status hu
  rw [hdata] at hstored
  refine ⟨u, hexec, ?_, ?_, hdlen, hn ▸ bytesAt_of_storedOnly hstored⟩
  · exact congrArg Status.err hstatus
  · exact (congrArg Status.x5 hstatus).trans (by rw [hf, hflag])

/-- Settles O49: the frame's parts are where PARSE_RSP looks for them, so every check passes. -/
theorem builtFrameParsesBack : Obligations.BuiltFrameParsesBack := by
  unfold Obligations.BuiltFrameParsesBack
  intro fc s t hexec herr
  obtain ⟨hunsupported, hcapacity, hbuilt⟩ := buildReqAssemblesTheFrame.2 fc s
  have hfc : fc ∈ [1, 2, 3, 4, 5, 6, 15, 16] := by
    by_contra hfc
    exact not_fails_of_err hexec herr (hunsupported hfc)
  have hlen : s.dlen.val ≤ 252 := by
    by_contra hlen
    exact not_fails_of_err hexec herr (hcapacity hfc (by omega))
  obtain ⟨t', hexec', hstored, htxlen, ht⟩ := hbuilt hfc hlen
  obtain rfl := Host.Outcome.next.inj (hexec.symm.trans hexec')
  have hlength : (t.bytesAt 0x100 t.txlen.val).length = s.dlen.val + 4 := by rw [State.length_bytesAt, htxlen]
  have hrxlen : (withFrame t (t.bytesAt 0x100 t.txlen.val)).rxlen.val = s.dlen.val + 4 :=
    (Nat.mod_eq_of_lt (by omega)).trans hlength
  have haddr : (withFrame t (t.bytesAt 0x100 t.txlen.val)).addr = s.addr :=
    (congrArg State.addr ht : t.addr = _)
  have hrxb := withFrame_bytesAt t (t.bytesAt 0x100 t.txlen.val)
  rw [hlength] at hrxb
  obtain ⟨u, hparse, herr', hx5, hdlen, hdata⟩ := parseRsp_of_frame (data := s.bytesAt 0x300 s.dlen.val) hfc (by simp)
    hrxlen (by
      rw [hrxb, haddr, htxlen]
      exact (congrArg (t.bytesAt 0x100) (by simp)).trans (bytesAt_of_storedOnly hstored))
  exact ⟨u, hparse, herr', hx5, Fin.ext hdlen, hdata⟩

end Sys2Proof
end

section
/-! PROOFS. Rounding (00_scope.md R11). The patterns of a format are its magnitudes in order, and the magnitudes from the
last place of a rational on are the multiples of that place; so rounding the significand rounds to the nearest pattern. -/

namespace Sys2Proof

open Sys2Proof.Machine Sys2Proof.Safety

/-! ## Rounding a quotient -/

section Quotient

variable {a b : Nat}

/-- The quotient or the next integer, whichever is nearer, the even one where both are (R11). -/
theorem roundDiv_cases (hb : 0 < b) : ∃ r, a = a / b * b + r ∧ r < b ∧
    ((roundDiv a b = a / b ∧ (2 * r < b ∨ (2 * r = b ∧ a / b % 2 = 0))) ∨
      (roundDiv a b = a / b + 1 ∧ (b < 2 * r ∨ (2 * r = b ∧ a / b % 2 = 1)))) := by
  refine ⟨a % b, by rw [Nat.mul_comm, Nat.div_add_mod], Nat.mod_lt a hb, ?_⟩
  rw [roundDiv]
  split <;> omega

/-- No multiple of `b` is nearer, and one as near is the same or the rounding is even. -/
theorem roundDiv_nearest (hb : 0 < b) (j : Nat) :
    ((a : Int) - (roundDiv a b * b : Nat)).natAbs ≤ ((a : Int) - (j * b : Nat)).natAbs ∧
    (((a : Int) - (roundDiv a b * b : Nat)).natAbs = ((a : Int) - (j * b : Nat)).natAbs →
      j = roundDiv a b ∨ roundDiv a b % 2 = 0) := by
  obtain ⟨r, ha, hr, hround⟩ := roundDiv_cases (a := a) hb
  generalize a / b = q at ha hround
  have hsucc : (q + 1) * b = q * b + b := Nat.succ_mul q b
  rcases Nat.lt_or_ge q j with hj | hj
  · obtain ⟨e, rfl⟩ := Nat.exists_eq_add_of_lt hj
    have hprod : (q + e + 1) * b = q * b + e * b + b := by ring
    have he : e = 0 ∨ b ≤ e * b := (Nat.eq_zero_or_pos e).imp_right (Nat.le_mul_of_pos_left b)
    obtain ⟨hq, hnear⟩ | ⟨hq, hnear⟩ := hround <;> rw [hq] <;> omega
  · obtain ⟨e, rfl⟩ := Nat.exists_eq_add_of_le hj
    have hprod : (j + e) * b = j * b + e * b := Nat.add_mul j e b
    have he : e = 0 ∨ b ≤ e * b := (Nat.eq_zero_or_pos e).imp_right (Nat.le_mul_of_pos_left b)
    obtain ⟨hq, hnear⟩ | ⟨hq, hnear⟩ := hround <;> rw [hq] <;> omega

/-- From halfway to an even number on, the rounding is at least that number. -/
theorem le_roundDiv {t : Nat} (hb : 0 < b) (ht : t % 2 = 0) (h : 2 * (t * b) ≤ 2 * a + b) : t ≤ roundDiv a b := by
  obtain ⟨r, ha, hr, hround⟩ := roundDiv_cases (a := a) hb
  generalize a / b = q at ha hround
  rcases Nat.lt_or_ge q t with hlt | hge
  · obtain ⟨e, rfl⟩ := Nat.exists_eq_add_of_lt hlt
    have hprod : (q + e + 1) * b = q * b + e * b + b := by ring
    obtain rfl : e = 0 := by
      by_contra he
      have := Nat.le_mul_of_pos_left b (Nat.pos_of_ne_zero he)
      omega
    omega
  · omega

/-- Below halfway to a number, the rounding is below it. -/
theorem roundDiv_lt {t : Nat} (hb : 0 < b) (h : 2 * a + b < 2 * (t * b)) : roundDiv a b < t := by
  obtain ⟨r, ha, hr, hround⟩ := roundDiv_cases (a := a) hb
  generalize a / b = q at ha hround
  rcases Nat.lt_or_ge q t with hlt | hge
  · obtain ⟨e, rfl⟩ := Nat.exists_eq_add_of_lt hlt
    have hprod : (q + e + 1) * b = q * b + e * b + b := by ring
    cases e with
    | zero =>
      rw [Nat.zero_mul] at hprod
      omega
    | succ e => omega
  · obtain ⟨e, rfl⟩ := Nat.exists_eq_add_of_le hge
    have hprod : (t + e) * b = t * b + e * b := Nat.add_mul t e b
    omega

end Quotient

/-! ## The magnitudes of a format -/

section Magnitudes

variable {f : Ieee}

/-- A significand rounded up to the next power of 2 moves to the next place. -/
theorem mag_of_place_le {k t : Nat} (ht : t ≤ 2 ^ (f.frac + 1)) (hk : k = 0 ∨ 2 ^ f.frac ≤ t) :
    f.mag (k * 2 ^ f.frac + t) = t * 2 ^ k := by
  rcases Nat.lt_or_eq_of_le ht with hlt | rfl
  · exact mag_of_place hlt hk
  · have hbits : k * 2 ^ f.frac + 2 ^ (f.frac + 1) = (k + 1) * 2 ^ f.frac + 2 ^ f.frac := by ring
    rw [hbits, mag_of_place (Nat.pow_lt_pow_succ Nat.one_lt_two) (.inr le_rfl), Nat.pow_succ, Nat.pow_succ]
    ring

/-- Every pattern is a significand at a place (R11). -/
theorem exists_place (f : Ieee) (c : Nat) :
    ∃ k t, c = k * 2 ^ f.frac + t ∧ t < 2 ^ (f.frac + 1) ∧ (k = 0 ∨ 2 ^ f.frac ≤ t) := by
  have hmod : c % 2 ^ f.frac < 2 ^ f.frac := Nat.mod_lt c (Nat.two_pow_pos _)
  have hdiv : c / 2 ^ f.frac * 2 ^ f.frac + c % 2 ^ f.frac = c := Nat.div_add_mod' c _
  cases hexp : c / 2 ^ f.frac with
  | zero =>
    rw [hexp] at hdiv
    exact ⟨0, c % 2 ^ f.frac, by omega, by rw [Nat.pow_succ]; omega, .inl rfl⟩
  | succ k =>
    rw [hexp, Nat.succ_mul] at hdiv
    exact ⟨k, 2 ^ f.frac + c % 2 ^ f.frac, by omega, by rw [Nat.pow_succ]; omega, .inr (Nat.le_add_right _ _)⟩

/-- The next pattern is one place more (R11). -/
theorem mag_strictMono (f : Ieee) : StrictMono f.mag := by
  refine strictMono_nat_of_lt_succ fun c => ?_
  obtain ⟨k, t, rfl, ht, hk⟩ := exists_place f c
  rw [Nat.add_assoc, mag_of_place_le ht.le hk, mag_of_place_le ht (hk.imp_right Nat.le_succ_of_le)]
  exact Nat.mul_lt_mul_of_pos_right (Nat.lt_succ_self t) (Nat.two_pow_pos k)

/-- A magnitude is a multiple of a place, or lies below the significands of that place. -/
theorem mag_multiple_or_lt (f : Ieee) (k c : Nat) :
    (∃ j, f.mag c = j * 2 ^ k) ∨ (k ≠ 0 ∧ f.mag c < 2 ^ f.frac * 2 ^ k) := by
  obtain ⟨k', t, rfl, ht, hk'⟩ := exists_place f c
  rw [mag_of_place_le ht.le hk']
  rcases Nat.lt_or_ge k' k with hlt | hge
  · refine .inr ⟨by omega, ?_⟩
    calc t * 2 ^ k' < 2 ^ (f.frac + 1) * 2 ^ k' := Nat.mul_lt_mul_of_pos_right ht (Nat.two_pow_pos k')
      _ = 2 ^ f.frac * 2 ^ (k' + 1) := by ring
      _ ≤ 2 ^ f.frac * 2 ^ k := Nat.mul_le_mul_left _ (Nat.pow_le_pow_right (by decide) hlt)
  · obtain ⟨e, rfl⟩ := Nat.exists_eq_add_of_le hge
    exact .inl ⟨t * 2 ^ e, by ring⟩

end Magnitudes

/-! ## Rounding a rational -/

section Rational

variable {f : Ieee} {n d : Nat}

/-- The last place of `n / d` (R11). -/
def lastPlace (f : Ieee) (n d : Nat) : Nat := f.shift (n * f.unit / d)

/-- The significand `n / d` is rounded to. -/
def roundedSignificand (f : Ieee) (n d : Nat) : Nat := roundDiv (n * f.unit) (d * 2 ^ lastPlace f n d)

theorem rne_eq_min (f : Ieee) (n d : Nat) :
    f.rne n d = min (lastPlace f n d * 2 ^ f.frac + roundedSignificand f n d) f.infBits := rfl

theorem place_pos (hd : 0 < d) : 0 < d * 2 ^ lastPlace f n d := Nat.mul_pos hd (Nat.two_pow_pos _)

/-- Before rounding the significand fits the format, and above the subnormals it has its top bit. -/
theorem significand_bounds (f : Ieee) (n d : Nat) :
    n * f.unit / (d * 2 ^ lastPlace f n d) < 2 ^ (f.frac + 1) ∧
      (lastPlace f n d = 0 ∨ 2 ^ f.frac ≤ n * f.unit / (d * 2 ^ lastPlace f n d)) := by
  rw [← Nat.div_div_eq_div_mul]
  exact ⟨div_shift_lt _, shift_eq_zero_or_le_div _⟩

theorem roundedSignificand_bounds (hd : 0 < d) : roundedSignificand f n d ≤ 2 ^ (f.frac + 1) ∧
    (lastPlace f n d = 0 ∨ 2 ^ f.frac ≤ roundedSignificand f n d) := by
  obtain ⟨r, -, -, hround⟩ := roundDiv_cases (a := n * f.unit) (place_pos (f := f) (n := n) hd)
  obtain ⟨hlt, hge⟩ := significand_bounds f n d
  rw [roundedSignificand]
  omega

/-- The magnitude of the pattern before the overflow bound. -/
theorem mag_rounded (hd : 0 < d) : f.mag (lastPlace f n d * 2 ^ f.frac + roundedSignificand f n d) * d =
    roundedSignificand f n d * (d * 2 ^ lastPlace f n d) := by
  obtain ⟨hle, hge⟩ := roundedSignificand_bounds (f := f) (n := n) hd
  rw [mag_of_place_le hle hge]
  ring

/-- Below the overflow bound the rounding is the nearest pattern, the even one of two. -/
theorem rounded_nearest (hd : 0 < d) (hfrac : 1 ≤ f.frac) {bits : Nat}
    (hbits : bits = lastPlace f n d * 2 ^ f.frac + roundedSignificand f n d) (c : Nat) :
    ((n * f.unit : Nat) - (f.mag bits * d : Nat) : Int).natAbs ≤
        ((n * f.unit : Nat) - (f.mag c * d : Nat) : Int).natAbs ∧
      (((n * f.unit : Nat) - (f.mag bits * d : Nat) : Int).natAbs =
        ((n * f.unit : Nat) - (f.mag c * d : Nat) : Int).natAbs → c = bits ∨ bits % 2 = 0) := by
  have hb := place_pos (f := f) (n := n) hd
  have hnear := roundDiv_nearest (a := n * f.unit) hb
  rw [← roundedSignificand] at hnear
  rw [hbits, mag_rounded hd]
  obtain ⟨j, hj⟩ | ⟨hplace, hlow⟩ := mag_multiple_or_lt f (lastPlace f n d) c
  · have hc : f.mag c * d = j * (d * 2 ^ lastPlace f n d) := by rw [hj]; ring
    rw [hc]
    obtain ⟨hle, htie⟩ := hnear j
    refine ⟨hle, fun heq => (htie heq).imp (fun hsame => ?_) fun heven => ?_⟩
    · refine (mag_strictMono f).injective (Nat.eq_of_mul_eq_mul_right hd ?_)
      rw [mag_rounded hd, hc, hsame]
    · have hplace : lastPlace f n d * 2 ^ f.frac % 2 = 0 := by
        obtain ⟨e, he⟩ := Nat.exists_eq_add_of_le hfrac
        rw [he, Nat.pow_add, Nat.mul_left_comm, Nat.pow_one, Nat.mul_mod_right]
      omega
  · have hmul := Nat.mul_lt_mul_of_pos_right hlow hd
    have hc : 2 ^ f.frac * 2 ^ lastPlace f n d * d = 2 ^ f.frac * (d * 2 ^ lastPlace f n d) := by ring
    have htop := (Nat.le_div_iff_mul_le hb).1 ((significand_bounds f n d).2.resolve_left hplace)
    obtain ⟨hle, -⟩ := hnear (2 ^ f.frac)
    omega

/-- The least magnitude that overflows, halfway from the last finite pattern's to the next place's (R11). -/
def overflowMag (f : Ieee) : Nat := (2 ^ (f.frac + 2) - 1) * 2 ^ (f.expInf - 3)

/-- The overflow bound at the last finite place: a half below `2 ^ (frac + 1)` significands. -/
theorem two_mul_overflowMag {e : Nat} (he : f.expInf = e + 3) :
    2 * (overflowMag f * d) + d * 2 ^ (e + 1) = 2 * (2 ^ (f.frac + 1) * (d * 2 ^ (e + 1))) := by
  have hpow : 2 ^ (f.frac + 2) - 1 + 1 = 2 ^ (f.frac + 2) := Nat.sub_add_cancel (Nat.two_pow_pos _)
  rw [overflowMag, he, Nat.add_sub_cancel]
  calc 2 * ((2 ^ (f.frac + 2) - 1) * 2 ^ e * d) + d * 2 ^ (e + 1)
      = (2 ^ (f.frac + 2) - 1 + 1) * (2 ^ (e + 1) * d) := by ring
    _ = 2 * (2 ^ (f.frac + 1) * (d * 2 ^ (e + 1))) := by rw [hpow]; ring

theorem infBits_eq {e : Nat} (he : f.expInf = e + 3) : f.infBits = (e + 1) * 2 ^ f.frac + 2 ^ (f.frac + 1) := by
  rw [Ieee.infBits, he]
  ring

/-- From the overflow bound on the pattern is past the finite ones. -/
theorem infBits_le_of_overflow (hd : 0 < d) {e : Nat} (he : f.expInf = e + 3) (h : overflowMag f * d ≤ n * f.unit) :
    f.infBits ≤ lastPlace f n d * 2 ^ f.frac + roundedSignificand f n d := by
  have hmag : 2 ^ (f.frac + (e + 1)) ≤ n * f.unit / d := by
    rw [Nat.le_div_iff_mul_le hd]
    refine le_trans (Nat.mul_le_mul_right d ?_) h
    have hpos := Nat.two_pow_pos (f.frac + 1)
    have htop : 2 ^ (f.frac + 1) ≤ 2 ^ (f.frac + 2) - 1 := by
      rw [Nat.pow_succ 2 (f.frac + 1)]
      omega
    calc 2 ^ (f.frac + (e + 1)) = 2 ^ (f.frac + 1) * 2 ^ e := by ring
      _ ≤ overflowMag f := by
        rw [overflowMag, he]
        exact Nat.mul_le_mul_right _ htop
  have hplace : e + 1 ≤ lastPlace f n d := by
    have hlog := (Nat.le_log2 (Nat.ne_of_gt (Nat.lt_of_lt_of_le (Nat.two_pow_pos _) hmag))).2 hmag
    rw [lastPlace, Ieee.shift]
    omega
  obtain ⟨hle, hge⟩ := roundedSignificand_bounds (f := f) (n := n) hd
  rw [infBits_eq he]
  rcases Nat.lt_or_eq_of_le hplace with hlt | heq
  · obtain ⟨k, hk⟩ := Nat.exists_eq_add_of_lt hlt
    have hprod : lastPlace f n d * 2 ^ f.frac = (e + 1) * 2 ^ f.frac + k * 2 ^ f.frac + 2 ^ f.frac := by rw [hk]; ring
    rw [hprod, Nat.pow_succ]
    omega
  · have hround : 2 ^ (f.frac + 1) ≤ roundedSignificand f n d := by
      rw [roundedSignificand, ← heq]
      refine le_roundDiv (Nat.mul_pos hd (Nat.two_pow_pos _)) (by rw [Nat.pow_succ, Nat.mul_mod_left]) ?_
      rw [← two_mul_overflowMag he]
      omega
    rw [← heq]
    omega

/-- Below the overflow bound the pattern is finite. -/
theorem lt_infBits_of_not_overflow (hd : 0 < d) {e : Nat} (he : f.expInf = e + 3) (h : n * f.unit < overflowMag f * d) :
    lastPlace f n d * 2 ^ f.frac + roundedSignificand f n d < f.infBits := by
  have hmag : n * f.unit / d < 2 ^ (f.frac + (e + 2)) := by
    refine (Nat.div_lt_iff_lt_mul hd).2 (h.trans_le (Nat.mul_le_mul_right d ?_))
    calc overflowMag f ≤ 2 ^ (f.frac + 2) * 2 ^ e := by
          rw [overflowMag, he]
          exact Nat.mul_le_mul_right _ (Nat.sub_le _ _)
      _ = 2 ^ (f.frac + (e + 2)) := by ring
  have hplace : lastPlace f n d ≤ e + 1 := by
    rcases Nat.eq_zero_or_pos (n * f.unit / d) with hzero | hpos
    · simp [lastPlace, Ieee.shift, hzero]
    · have hlog := (Nat.log2_lt hpos.ne').2 hmag
      rw [lastPlace, Ieee.shift]
      omega
  obtain ⟨hle, -⟩ := roundedSignificand_bounds (f := f) (n := n) hd
  rw [infBits_eq he]
  rcases Nat.lt_or_eq_of_le hplace with hlt | heq
  · have hprod : lastPlace f n d * 2 ^ f.frac ≤ e * 2 ^ f.frac := Nat.mul_le_mul_right _ (Nat.le_of_lt_succ hlt)
    have hpos := Nat.two_pow_pos f.frac
    rw [Nat.succ_mul]
    omega
  · have hround : roundedSignificand f n d < 2 ^ (f.frac + 1) := by
      rw [roundedSignificand, heq]
      refine roundDiv_lt (Nat.mul_pos hd (Nat.two_pow_pos _)) ?_
      rw [← two_mul_overflowMag he]
      omega
    rw [heq]
    omega

/-- The rounding of a format is R11's, where the bound is the format's overflow magnitude. -/
theorem isRounded_rne {bound : Nat} (hd : 0 < d) (hfrac : 1 ≤ f.frac) (hexp : 3 ≤ f.expInf) (hunit : 0 < f.unit)
    (hbound : bound * f.unit = overflowMag f) : IsRounded f bound n d (f.rne n d) := by
  obtain ⟨e, he⟩ := Nat.exists_eq_add_of_le' hexp
  have hscale : bound * d * f.unit = overflowMag f * d := by rw [← hbound]; ring
  rw [rne_eq_min]
  refine ⟨fun h => ?_, fun h => ?_⟩
  · exact Nat.min_eq_right (infBits_le_of_overflow hd he (hscale ▸ Nat.mul_le_mul_right f.unit h))
  · have hlt := lt_infBits_of_not_overflow hd he (hscale ▸ Nat.mul_lt_mul_of_pos_right h hunit)
    rw [Nat.min_eq_left hlt.le]
    exact ⟨hlt, fun c _ => rounded_nearest hd hfrac rfl c⟩

end Rational

/-- The overflow bound as a number: half a last place below the next power of 2. -/
theorem bound_mul_unit (f : Ieee) {top place unit : Nat} (hunit : f.unit = 2 ^ unit) (hplace : f.expInf - 3 = place + unit)
    (htop : top = f.frac + 2 + place) : (2 ^ top - 2 ^ place) * f.unit = overflowMag f := by
  rw [overflowMag, hunit, hplace, htop, Nat.pow_add 2 (f.frac + 2), Nat.pow_add 2 place, ← Nat.mul_assoc, Nat.sub_mul _ 1,
    Nat.one_mul]

theorem bound_binary32 : (2 ^ 128 - 2 ^ 103) * binary32.unit = overflowMag binary32 :=
  bound_mul_unit binary32 (unit := 149) rfl rfl rfl

theorem binary64_unit_pos : 0 < binary64.unit := by decide

theorem bound_binary64 : (2 ^ 1024 - 2 ^ 970) * binary64.unit = overflowMag binary64 :=
  bound_mul_unit binary64 (unit := 1074) binary64_unit rfl rfl

/-- Settles O35: both formats' bounds are their overflow magnitudes. -/
theorem roundingIsToNearestEven : Obligations.RoundingIsToNearestEven := by
  unfold Obligations.RoundingIsToNearestEven
  intro n d hd
  exact ⟨isRounded_rne hd (by decide) (by decide) binary64_unit_pos bound_binary64,
    isRounded_rne hd (by decide) (by decide) (Nat.two_pow_pos 149) bound_binary32⟩

end Sys2Proof
end

section
/-! PROOFS. The round trips of the numeric codec (41_numeric_codec.md R130 to R132, R135, R136, R141). -/

namespace Sys2Proof

open Sys2Proof.Machine Sys2Proof.Safety

/-! ## Narrowing after widening -/

/-- A rational that is the value of a pattern rounds to that pattern (R11). -/
theorem rne_of_mag {f : Ieee} {n d c : Nat} (hd : 0 < d) (hfrac : 1 ≤ f.frac) (hmag : n * f.unit = f.mag c * d)
    (hc : c < f.infBits) : f.rne n d = c := by
  obtain ⟨hnear, -⟩ := rounded_nearest (f := f) (n := n) hd hfrac rfl c
  rw [hmag, Int.sub_self, Int.natAbs_zero, Nat.le_zero, Int.natAbs_eq_zero, Int.sub_eq_zero, Int.ofNat_inj] at hnear
  have hbits := (mag_strictMono f).injective (Nat.eq_of_mul_eq_mul_right hd hnear)
  rw [rne_eq_min, ← hbits, Nat.min_eq_left hc.le]

/-- A pattern from its sign and the rest. -/
theorem ofNat_sign_add (q : Word) : BitVec.ofNat 32 (q.toNat / 2 ^ 31 * 2 ^ 31 + q.toNat % 2 ^ 31) = q := by
  rw [Nat.div_add_mod', BitVec.ofNat_toNat, BitVec.setWidth_eq]

section Pattern

variable {q : Word} {v : Nat}

/-- The parts of a binary64 pattern with the sign of a binary32 one. -/
theorem widened_parts (hv : v < 2 ^ 63) (h : widen q = BitVec.ofNat 64 (q.toNat / 2 ^ 31 * 2 ^ 63 + v)) :
    (widen q).toNat / 2 ^ 63 = q.toNat / 2 ^ 31 ∧ bits64 (widen q) = v := by
  have hq := q.isLt
  rw [bits64, h, BitVec.toNat_ofNat]
  omega

end Pattern

/-- The fraction of a widened quiet NaN. -/
theorem quiet_or_frac {y : Nat} (hy : y < 2 ^ 22) :
    0x7FF8000000000000 ||| (2 ^ 22 + y) * 2 ^ 29 = 0x7FF8000000000000 + y * 2 ^ 29 := by
  have hlow (k : Nat) : 2 ^ 51 * k + y * 2 ^ 29 = 2 ^ 51 * k ||| y * 2 ^ 29 :=
    Nat.two_pow_add_eq_or_of_lt (by omega) k
  have hones : 2 ^ 51 * 0xFFF = 0x7FF8000000000000 := by norm_num
  rw [← hones]
  calc 2 ^ 51 * 0xFFF ||| (2 ^ 22 + y) * 2 ^ 29 = 2 ^ 51 * 0xFFF ||| (2 ^ 51 * 1 + y * 2 ^ 29) := by
        rw [Nat.add_mul, Nat.mul_one, ← Nat.pow_add]
    _ = 2 ^ 51 * 0xFFF ||| y * 2 ^ 29 := by rw [hlow 1, ← Nat.lor_assoc]; rfl
    _ = 2 ^ 51 * 0xFFF + y * 2 ^ 29 := (hlow 0xFFF).symm

/-- A quiet NaN keeps its sign and fraction (R141). -/
theorem narrow_widen_of_nan {q : Word} (h : 0x7F800000 < q.toNat % 2 ^ 31) (hquiet : q.getLsbD 22 = true) :
    narrow (widen q) = some q := by
  have hbit : q.toNat / 2 ^ 22 % 2 = 1 := by
    rwa [BitVec.getLsbD, Nat.testBit_eq_decide_div_mod_eq, decide_eq_true_iff] at hquiet
  have hfrac : q.toNat % 2 ^ 23 = 2 ^ 22 + q.toNat % 2 ^ 22 := by omega
  have hwiden := widen_of_nan h
  rw [hfrac, quiet_or_frac (Nat.mod_lt _ (by decide))] at hwiden
  obtain ⟨hsign, hbits⟩ := widened_parts (by omega) hwiden
  rw [narrow_of_nan (by omega), hsign, hbits]
  refine congrArg some (Eq.trans (congrArg _ ?_) (ofNat_sign_add q))
  omega

/-- A finite binary32 value rounds to itself (R141). -/
theorem narrow_widen_of_finite {q : Word} (h : q.toNat % 2 ^ 31 < 0x7F800000) : narrow (widen q) = some q := by
  obtain ⟨hlt, hexact⟩ := binary64_rne_of_binary32 h
  obtain ⟨hsign, hbits⟩ := widened_parts (by omega) (widen_of_finite h)
  have hround : binary32.rne (mag64 (widen q)) binary64.unit = q.toNat % 2 ^ 31 := by
    rw [mag64, hbits]
    exact rne_of_mag binary64_unit_pos (by decide) hexact (binary32_infBits ▸ h)
  rw [narrow_of_finite (hbits ▸ hlt) (hround ▸ h), hsign, hround, ofNat_sign_add]

/-- Settles O36: by the three cases of R141. -/
theorem narrowingUndoesWidening : Obligations.NarrowingUndoesWidening := by
  unfold Obligations.NarrowingUndoesWidening
  intro q hquiet
  rcases Nat.lt_trichotomy (q.toNat % 2 ^ 31) 0x7F800000 with hfinite | hinf | hnan
  · exact narrow_widen_of_finite hfinite
  · obtain ⟨hsign, hbits⟩ := widened_parts (by decide) (widen_of_inf hinf)
    rw [narrow_of_inf hbits, hsign, ← hinf, ofNat_sign_add]
  · exact narrow_widen_of_nan hnan (Bool.eq_true_of_not_eq_false fun hbit => hquiet ⟨hnan, hbit⟩)

/-! ## Longs and doubles -/

theorem length_wireWord (bo : ByteOrder) (n : Nat) : (wireWord bo n).length = 4 := by cases bo <;> rfl

theorem length_wireDWord (bo : ByteOrder) (n : Nat) : (wireDWord bo n).length = 8 := by cases bo <;> rfl

/-- DBUF after a command that fills it. -/
theorem exists_data_of_fillsData {i : Instr} {s : State} {bs : List Byte} (h : FillsData i s bs) :
    ∃ t, exec i s = .next t ∧ t.dlen.val = bs.length ∧ t.bytesAt 0x300 bs.length = bs := by
  obtain ⟨t, hexec, hstored, hdlen, -⟩ := h
  exact ⟨t, hexec, hdlen, bytesAt_of_storedOnly hstored⟩

/-- A command that gives a result leaves it in RES. -/
theorem exists_res_of_givesResult {i : Instr} {s : State} {v : DWord} {resf : Bool} (h : GivesResult i s v resf) :
    ∃ u, exec i s = .next u ∧ u.res = v ∧ u.status.err = false ∧ u.status.resf = resf :=
  ⟨_, h, rfl, rfl, rfl⟩

/-- A value in the range of ENC_LONG is the integer its low half stands for (R130). -/
theorem ofInt_long {sg : Bool} {v : DWord} (hlo : (if sg then -2 ^ 31 else 0 : Int) ≤ v.toInt)
    (hhi : v.toInt ≤ (if sg then 2 ^ 31 - 1 else 2 ^ 32 - 1 : Int)) :
    BitVec.ofInt 64 (if sg = true ∧ 2 ^ 31 ≤ v.toNat % 2 ^ 32 then ((v.toNat % 2 ^ 32 : Nat) : Int) - 2 ^ 32
      else (v.toNat % 2 ^ 32 : Nat)) = v := by
  have hint := BitVec.toInt_eq_toNat_cond v
  have hv := v.isLt
  refine Eq.trans (congrArg _ ?_) (BitVec.ofInt_toInt (x := v))
  cases sg with
  | false =>
    simp only [Bool.false_eq_true, if_false, false_and] at hlo hhi ⊢
    omega
  | true =>
    simp only [if_true, true_and] at hlo hhi ⊢
    omega

/-- ENC_LONG completes on values in its range only (R130). -/
theorem encLong_range {sg : Bool} {bo : ByteOrder} {s t : State} (hexec : exec (.encLong sg bo) s = .next t)
    (herr : t.status.err = false) : (if sg then -2 ^ 31 else 0 : Int) ≤ s.val.toInt ∧
      s.val.toInt ≤ (if sg then 2 ^ 31 - 1 else 2 ^ 32 - 1 : Int) := by
  obtain ⟨hlow, hhigh, -⟩ := encLongChecksAndOrders.2 sg bo s
  exact ⟨Int.not_lt.1 fun h => not_fails_of_err hexec herr (hlow h),
    Int.not_lt.1 fun h => not_fails_of_err hexec herr (hhigh h)⟩

/-- Settles O34: the decoder reads the wire bytes the encoder left in DBUF. -/
theorem longsAndDoublesRoundTrip : Obligations.LongsAndDoublesRoundTrip := by
  unfold Obligations.LongsAndDoublesRoundTrip
  refine ⟨fun sg bo s t hexec herr => ?_, fun bo s => ?_⟩
  · obtain ⟨hlo, hhi⟩ := encLong_range hexec herr
    obtain ⟨-, -, hfills⟩ := encLongChecksAndOrders.2 sg bo s
    obtain ⟨t', hexec', hdlen, hbytes⟩ := exists_data_of_fillsData (hfills hlo hhi)
    obtain rfl : t' = t := Host.Outcome.next.inj (hexec'.symm.trans hexec)
    rw [length_wireWord] at hdlen hbytes
    have hres := decLongReadsEachOrder.2.2 sg bo t' _ hdlen (Nat.mod_lt _ (by decide)) hbytes
    rw [ofInt_long hlo hhi] at hres
    exact exists_res_of_givesResult hres
  · obtain ⟨t, hexec, hdlen, hbytes⟩ := exists_data_of_fillsData (encFloatNarrowsAndOrders.2 bo s).1
    rw [length_wireDWord] at hdlen hbytes
    have hres := decFloatWidensExactly.2.2.1 bo t _ hdlen s.val.isLt hbytes
    rw [BitVec.ofNat_toNat, BitVec.setWidth_eq] at hres
    obtain ⟨u, hexec', hu⟩ := exists_res_of_givesResult hres
    exact ⟨t, u, hexec, hexec', hu⟩

/-! ## Bit lists -/

/-- ENC_BITS completes on entries 0 and 1 only (R135). -/
theorem encBits_entries_le {s t : State} (hexec : exec .encBits s = .next t) (herr : t.status.err = false) (k : Nat) :
    k < s.vcnt.val → (s.varr k).toNat ≤ 1 := by
  induction k using Nat.strongRecOn with
  | ind k ih =>
    intro hk
    by_contra habove
    exact not_fails_of_err hexec herr
      (encBitsPacksLowBitFirst.2.1 s k hk (Nat.not_le.1 habove) fun j hj => ih j hj (hj.trans hk))

/-- An entry 0 or 1 from its bit. -/
theorem ite_beq_one {v : Word} (h : v.toNat ≤ 1) : (if (v == 1) = true then 1 else 0 : Word) = v := by
  apply BitVec.eq_of_toNat_eq
  by_cases hone : v = 1
  · simp [hone]
  · have hne : v.toNat ≠ 1 := fun h1 => hone (BitVec.eq_of_toNat_eq h1)
    rw [if_neg (by simpa using hone)]
    change 0 = _
    omega

/-- Bit `k` of a packed list is entry `k`. -/
theorem getLsbD_byteAt_of_packed {s t : State} {bs : List Byte} {n k : Nat} (hstored : StoredOnly s t 0x300 bs)
    (hlen : bs.length = (n + 7) / 8) (hk : k < n)
    (hbits : ∀ j k b, bs[j]? = some b → k < 8 → b.getLsbD k = (decide (8 * j + k < n) && s.varr (8 * j + k) == 1)) :
    (t.byteAt (0x300 + k / 8)).getLsbD (k % 8) = (s.varr k == 1) := by
  have hj : k / 8 < bs.length := by omega
  have hbyte := List.getElem?_eq_getElem hj
  have hstore := hstored (0x300 + k / 8)
  rw [if_pos (Nat.le_add_right _ _), Nat.add_sub_cancel_left, hbyte, Option.getD_some] at hstore
  rw [hstore, hbits _ _ _ hbyte (Nat.mod_lt k (by decide)), Nat.div_add_mod, decide_eq_true hk, Bool.true_and]

/-- Settles O41: DBUF holds the packed bits, and each entry is its bit. -/
theorem bitListRoundTrip : Obligations.BitListRoundTrip := by
  unfold Obligations.BitListRoundTrip
  intro s t hexec herr
  have hle := encBits_entries_le hexec herr
  obtain ⟨bs, ⟨t', hexec', hstored, hdlen, -⟩, hlen, hbits⟩ := encBitsPacksLowBitFirst.2.2 s hle
  obtain rfl : t' = t := Host.Outcome.next.inj (hexec'.symm.trans hexec)
  have hcnt : (BitVec.ofNat 16 s.vcnt.val).toNat = s.vcnt.val := by
    rw [BitVec.toNat_ofNat, Nat.mod_eq_of_lt (by omega)]
  obtain ⟨u, hdec, hentry, -, hvcnt, hu⟩ := (decBitsUnpacksLowBitFirst.2 { t' with cnt := BitVec.ofNat 16 s.vcnt.val }).2
    (by rw [hcnt, ← hlen, ← hdlen])
  rw [hcnt] at hentry hvcnt
  have hstatus := congrArg State.status hu
  refine ⟨u, hdec, congrArg Status.err hstatus,
    Fin.ext (by rw [hvcnt, List.length_map, List.length_range]), fun k hk => ?_⟩
  have hbit := getLsbD_byteAt_of_packed hstored hlen hk hbits
  rw [hentry k, List.getElem?_map, List.getElem?_range hk, Option.map_some, Option.getD_some]
  exact (congrArg (fun b : Bool => if b = true then (1 : Word) else 0) hbit).trans (ite_beq_one (hle k hk))

end Sys2Proof
end
